-- ==== Sys2Proof/Word.lean ====
section
/-! DEFINITION. The word types of the CFS block: bytes on the bus (20_memory.md R40), 32-bit command words
(30_encoding.md R60) and 64-bit data words, addresses and system registers (10_state.md R14 to R17, R26). -/

namespace Sys2Proof

/-- The addressable unit of the bus space (R40). -/
abbrev Byte := BitVec 8

/-- The command word CMD (R60). -/
abbrev CmdWord := BitVec 32

/-- A 64-bit value: WDATA, RDATA, an address, a system register (R14 to R17, R26, R40). -/
abbrev Word := BitVec 64

end Sys2Proof
end

