-- ==== Sys2Proof/Syntax.lean ====
section
/-! DEFINITION. The seventeen commands of 30_encoding.md R66, one constructor per row of opcode_table.json, and
the mnemonics and assembler text of R71. The data word WDATA is not part of a command's syntax: it arrives
beside the command word on the command port (R60, 10_state.md R26). -/

namespace Sys2Proof

/-- A command. Every field is an unsigned natural, as 30_encoding.md R67 uses it. -/
inductive Instr where
  /-- NEWZ h (R81) -/
  | newz (h : Nat)
  /-- NEWV h, WDATA (R82) -/
  | newv (h : Nat)
  /-- NEWF h (R83) -/
  | newf (h : Nat)
  /-- GETV h (R84) -/
  | getv (h : Nat)
  /-- SETV h, WDATA (R85) -/
  | setv (h : Nat)
  /-- FETCH h (R86) -/
  | fetch (h : Nat)
  /-- STORE h (R87) -/
  | store (h : Nat)
  /-- GETBITS h, shift, width (R88) -/
  | getbits (h shift width : Nat)
  /-- SETBITS h, shift, width, WDATA (R89) -/
  | setbits (h shift width : Nat)
  /-- GETBIT h, bit (R90) -/
  | getbit (h bit : Nat)
  /-- SETBIT h, bit, WDATA (R91) -/
  | setbit (h bit : Nat)
  /-- PFETCH a, pin (R101) -/
  | pfetch (a pin : Nat)
  /-- PSTORE a, pin, WDATA (R102) -/
  | pstore (a pin : Nat)
  /-- INITEXC (R110) -/
  | initexc
  /-- GETCID (R111) -/
  | getcid
  /-- HALT (R112) -/
  | halt
  /-- POWEROFF (R113) -/
  | poweroff
deriving DecidableEq, Repr

end Sys2Proof
end

