-- ==== Sys2Proof/WellFormed.lean ====
section
/-! DEFINITION. Which terms of Instr have an encoding: each field lies in the range its format gives it
(30_encoding.md R62 to R65). A field that is too wide for the command's own checks (a shift beyond the register,
a handle that does not exist) is well formed: it decodes, and the command then fails its check (R63, R68). -/

namespace Sys2Proof

/-- `h` and `a` are the eight bits 23:16 of CMD (R62, R65). -/
def indexFits (h : Nat) : Bool := decide (h < 256)

/-- `shift`, `width` and `bit` are seven-bit fields, 0 to 127 (R63, R64). -/
def sevenBitFits (n : Nat) : Bool := decide (n < 128)

/-- `pin` is the sixteen bits 15:0 of CMD (R65). -/
def pinFits (n : Nat) : Bool := decide (n < 65536)

/-- The command has an encoding: formats N, H, F, B, P of R61 to R65. -/
def Instr.wf : Instr → Bool
  | .newz h | .newv h | .newf h | .getv h | .setv h | .fetch h | .store h => indexFits h
  | .getbits h shift width | .setbits h shift width =>
      indexFits h && sevenBitFits shift && sevenBitFits width
  | .getbit h bit | .setbit h bit => indexFits h && sevenBitFits bit
  | .pfetch a pin | .pstore a pin => indexFits a && pinFits pin
  | .initexc | .getcid | .halt | .poweroff => true

end Sys2Proof
end

