-- ==== Sys2Proof/Decode.lean ====
section
/-! DEFINITION. The decoder of command words (30_encoding.md R60 to R68, R73 step 1), the encoder written from the
same tables, and the assembler's view of a command (R71, R72). The block fetches no instructions and a command
word has no byte order (20_memory.md R40, R41): a command arrives whole on the command port. -/

namespace Sys2Proof

/-- `v[hi:lo]` of 00_scope.md R4: `(v >> lo) mod 2^(hi - lo + 1)`. -/
def bitField (v hi lo : Nat) : Nat := (v >>> lo) % 2 ^ (hi - lo + 1)

/-- Why a command word is illegal (R68). Both raise `Fatal(4)`. -/
inductive DecodeError where
  /-- bits 31:24 are none of the seventeen opcodes of R66 -/
  | unassignedOpcode (opcode : Nat)
  /-- a must-be-zero bit of the opcode's format is set (R61 to R64) -/
  | reservedBitSet (opcode : Nat)
deriving DecidableEq, Repr

/-- Accept the decoded command if the format's must-be-zero field `mbz` is zero. -/
def ifZero (mbz op : Nat) (i : Instr) : Except DecodeError Instr :=
  if mbz = 0 then .ok i else .error (.reservedBitSet op)

/-- The command of a command word, or the name of what is wrong with it (R60 to R68). -/
def decode (cmd : CmdWord) : Except DecodeError Instr :=
  let v := cmd.toNat
  let op := bitField v 31 24
  let h := bitField v 23 16
  let width := bitField v 13 7
  let shift := bitField v 6 0
  let formatN := bitField v 23 0
  let formatH := bitField v 15 0
  let formatF := bitField v 15 14
  let formatB := bitField v 15 7
  match op with
  | 0x01 => ifZero formatH op (.newz h)
  | 0x02 => ifZero formatH op (.newv h)
  | 0x03 => ifZero formatH op (.newf h)
  | 0x04 => ifZero formatH op (.getv h)
  | 0x05 => ifZero formatH op (.setv h)
  | 0x06 => ifZero formatH op (.fetch h)
  | 0x07 => ifZero formatH op (.store h)
  | 0x08 => ifZero formatF op (.getbits h shift width)
  | 0x09 => ifZero formatF op (.setbits h shift width)
  | 0x0A => ifZero formatB op (.getbit h shift)
  | 0x0B => ifZero formatB op (.setbit h shift)
  | 0x10 => .ok (.pfetch h (bitField v 15 0))
  | 0x11 => .ok (.pstore h (bitField v 15 0))
  | 0x20 => ifZero formatN op .initexc
  | 0x21 => ifZero formatN op .getcid
  | 0x22 => ifZero formatN op .halt
  | 0x23 => ifZero formatN op .poweroff
  | _ => .error (.unassignedOpcode op)

/-- The decoder on a word of opcode_table.json: bit 0 is the least significant bit of CMD, and every bit at or
above `nbits` is 0. A command is one 32-bit word (R60). -/
def decodeTableWord (nbits w : Nat) : Option Instr :=
  (decode (BitVec.ofNat 32 (w % 2 ^ nbits))).toOption

/-- The opcode of a command, CMD[31:24] (R66). -/
def Instr.opcode : Instr → Nat
  | .newz _ => 0x01
  | .newv _ => 0x02
  | .newf _ => 0x03
  | .getv _ => 0x04
  | .setv _ => 0x05
  | .fetch _ => 0x06
  | .store _ => 0x07
  | .getbits _ _ _ => 0x08
  | .setbits _ _ _ => 0x09
  | .getbit _ _ => 0x0A
  | .setbit _ _ => 0x0B
  | .pfetch _ _ => 0x10
  | .pstore _ _ => 0x11
  | .initexc => 0x20
  | .getcid => 0x21
  | .halt => 0x22
  | .poweroff => 0x23

/-- The mnemonic of a command (R66). -/
def Instr.mnemonic : Instr → String
  | .newz _ => "NEWZ"
  | .newv _ => "NEWV"
  | .newf _ => "NEWF"
  | .getv _ => "GETV"
  | .setv _ => "SETV"
  | .fetch _ => "FETCH"
  | .store _ => "STORE"
  | .getbits _ _ _ => "GETBITS"
  | .setbits _ _ _ => "SETBITS"
  | .getbit _ _ => "GETBIT"
  | .setbit _ _ => "SETBIT"
  | .pfetch _ _ => "PFETCH"
  | .pstore _ _ => "PSTORE"
  | .initexc => "INITEXC"
  | .getcid => "GETCID"
  | .halt => "HALT"
  | .poweroff => "POWEROFF"

/-- The bits below the opcode (R61 to R65). The fields of a format do not overlap, so the `or` of R71 is a sum. -/
def Instr.operandBits : Instr → Nat
  | .newz h | .newv h | .newf h | .getv h | .setv h | .fetch h | .store h => h * 2 ^ 16
  | .getbits h shift width | .setbits h shift width => h * 2 ^ 16 + width * 2 ^ 7 + shift
  | .getbit h bit | .setbit h bit => h * 2 ^ 16 + bit
  | .pfetch a pin | .pstore a pin => a * 2 ^ 16 + pin
  | .initexc | .getcid | .halt | .poweroff => 0

/-- The command word of a well-formed command (the CMD column of R71). -/
def encode (i : Instr) : CmdWord := BitVec.ofNat 32 (i.opcode * 2 ^ 24 + i.operandBits)

/-- One row of the opcode map: a word `w` is the command iff `w & mask = match` (R66). -/
structure OpcodeRow where
  mnemonic : String
  matchBits : CmdWord
  mask : CmdWord
deriving DecidableEq, Repr

/-- The opcode map of R66, row by row. -/
def opcodeMap : List OpcodeRow :=
  [⟨"NEWZ", 0x01000000, 0xFF00FFFF⟩, ⟨"NEWV", 0x02000000, 0xFF00FFFF⟩, ⟨"NEWF", 0x03000000, 0xFF00FFFF⟩,
   ⟨"GETV", 0x04000000, 0xFF00FFFF⟩, ⟨"SETV", 0x05000000, 0xFF00FFFF⟩, ⟨"FETCH", 0x06000000, 0xFF00FFFF⟩,
   ⟨"STORE", 0x07000000, 0xFF00FFFF⟩, ⟨"GETBITS", 0x08000000, 0xFF00C000⟩, ⟨"SETBITS", 0x09000000, 0xFF00C000⟩,
   ⟨"GETBIT", 0x0A000000, 0xFF00FF80⟩, ⟨"SETBIT", 0x0B000000, 0xFF00FF80⟩, ⟨"PFETCH", 0x10000000, 0xFF000000⟩,
   ⟨"PSTORE", 0x11000000, 0xFF000000⟩, ⟨"INITEXC", 0x20000000, 0xFFFFFFFF⟩, ⟨"GETCID", 0x21000000, 0xFFFFFFFF⟩,
   ⟨"HALT", 0x22000000, 0xFFFFFFFF⟩, ⟨"POWEROFF", 0x23000000, 0xFFFFFFFF⟩]

/-- The word is the command of the row (R66). -/
def OpcodeRow.covers (r : OpcodeRow) (w : CmdWord) : Bool := w &&& r.mask == r.matchBits

/-- The commands with a data operand (R67): the others ignore WDATA (R60). -/
def Instr.takesData : Instr → Bool
  | .newv _ | .setv _ | .setbits _ _ _ | .setbit _ _ | .pstore _ _ => true
  | .newz _ | .newf _ | .getv _ | .fetch _ | .store _ | .getbits _ _ _ | .getbit _ _ | .pfetch _ _ => false
  | .initexc | .getcid | .halt | .poweroff => false

/-- A command as the assembler emits it, `(CMD, WDATA)`; where WDATA is ignored the assembler emits zero (R71). -/
def assemble (i : Instr) (value : Word) : CmdWord × Word :=
  (encode i, if i.takesData then value else 0)

/-- The assembler text of a command: lower-case mnemonic, operands separated by commas (R71). -/
def Instr.asmText (value : Word) : Instr → String
  | .newz h => "newz " ++ toString h
  | .newv h => "newv " ++ toString h ++ ", " ++ toString value.toNat
  | .newf h => "newf " ++ toString h
  | .getv h => "getv " ++ toString h
  | .setv h => "setv " ++ toString h ++ ", " ++ toString value.toNat
  | .fetch h => "fetch " ++ toString h
  | .store h => "store " ++ toString h
  | .getbits h shift width => "getbits " ++ toString h ++ ", " ++ toString shift ++ ", " ++ toString width
  | .setbits h shift width => "setbits " ++ toString h ++ ", " ++ toString shift ++ ", " ++ toString width ++ ", "
      ++ toString value.toNat
  | .getbit h bit => "getbit " ++ toString h ++ ", " ++ toString bit
  | .setbit h bit => "setbit " ++ toString h ++ ", " ++ toString bit ++ ", " ++ toString value.toNat
  | .pfetch a pin => "pfetch " ++ toString a ++ ", " ++ toString pin
  | .pstore a pin => "pstore " ++ toString a ++ ", " ++ toString pin ++ ", " ++ toString value.toNat
  | .initexc => "initexc"
  | .getcid => "getcid"
  | .halt => "halt"
  | .poweroff => "poweroff"

/-- The pseudo-instruction `rmw h, shift, width, value` (R72). -/
def rmw (h shift width : Nat) (value : Word) : List (CmdWord × Word) :=
  [assemble (.fetch h) 0, assemble (.setbits h shift width) value, assemble (.store h) 0]

/-- The pseudo-instruction `rdfield h, shift, width` (R72). -/
def rdfield (h shift width : Nat) : List (CmdWord × Word) :=
  [assemble (.fetch h) 0, assemble (.getbits h shift width) 0]

end Sys2Proof
end

