-- ==== Sys2Proof/Config.lean ====
section
/-! DEFINITION. The configuration record CFG of 00_scope.md R2, the names it is written in (system registers,
exception groups and classes), the reset draws of 10_state.md R17, and the free values of the model: what the
environment answers where the spec lets it answer anything. -/

namespace Sys2Proof

/-- The eight system registers of 10_state.md R17, by their names there. -/
inductive SysReg where
  | coreid | vbar | elr | esr | far | mask | trapctl | spsel
deriving DecidableEq, Repr

/-- The exception-level groups of 60_exceptions.md R134. -/
inductive Group where
  | lowerAArch32 | lowerAArch64 | currentSPx | currentSP0
deriving DecidableEq, Repr

/-- The exception classes of 60_exceptions.md R133. -/
inductive TrapClass where
  | synchronous | irq | fiq | serror
deriving DecidableEq, Repr

/-- A register handle's `kind` and `loc` (R2): an address of the bus space or a system register. An id that names
no register (R17, R3 (c)) cannot be written. -/
inductive HandleLoc where
  | mmio (addr : Word)
  | sysreg (reg : SysReg)
deriving DecidableEq, Repr

/-- One entry of the handle table HT (R2): where the register is and its width W in bits. -/
structure Handle where
  loc : HandleLoc
  width : Nat
deriving DecidableEq, Repr

/-- One packed-array descriptor of PT (R2). -/
structure PackedArray where
  base : Word
  sz : Nat
  nwords : Nat
  maxPins : Nat
deriving DecidableEq, Repr

/-- GROUP_CODE (R2, 30_encoding.md R70): the 4-bit tag code of each group. -/
structure GroupCodes where
  lowerAArch32 : BitVec 4
  lowerAArch64 : BitVec 4
  currentSPx : BitVec 4
  currentSP0 : BitVec 4
deriving DecidableEq, Repr

/-- CLASS_CODE (R2, 30_encoding.md R70): the 4-bit tag code of each class. -/
structure ClassCodes where
  serror : BitVec 4
  fiq : BitVec 4
  irq : BitVec 4
  synchronous : BitVec 4
deriving DecidableEq, Repr

/-- The configuration record CFG (R2). NH and NA are the lengths of `ht` and `pt`. -/
structure Config where
  ncores : Nat
  ramTop : Word
  stackSize : Word
  /-- informative only: handle addresses are absolute (R2) -/
  periphBase : Word
  /-- COREID_RAW, one value per physical core -/
  coreidRaw : List Word
  cidShift : Nat
  cidWidth : Nat
  entry : Word
  vtBase : Word
  passCoreid : Bool
  initRouting : Bool
  ht : List Handle
  pt : List PackedArray
  groupCode : GroupCodes
  classCode : ClassCodes
deriving DecidableEq, Repr

/-- NH, the number of register handles (R2). -/
def Config.nh (cfg : Config) : Nat := cfg.ht.length

/-- NA, the number of packed-array descriptors (R2). -/
def Config.na (cfg : Config) : Nat := cfg.pt.length

/-- The default group codes of 30_encoding.md R70. -/
def GroupCodes.default : GroupCodes :=
  { lowerAArch32 := 0, lowerAArch64 := 1, currentSPx := 2, currentSP0 := 3 }

/-- The default class codes of 30_encoding.md R70. -/
def ClassCodes.default : ClassCodes := { serror := 0, fiq := 1, irq := 2, synchronous := 3 }

/-- The configuration `State.reset` starts from: CFG-T, the example configuration of 95_test_vectors.md section 0.
DESIGN CHOICE, unsafe (log entry 1): the spec gives no value for these platform constants. Every definition reads
the configuration from the state, and no statement rests on this one. -/
def Config.cfgT : Config :=
  { ncores := 4, ramTop := 0x40000000, stackSize := 0x10000, periphBase := 0x3F000000,
    coreidRaw := [0x80000000, 0x80000001, 0x80000002, 0x80000003], cidShift := 0, cidWidth := 2,
    entry := 0x81000, vtBase := 0x80000, passCoreid := true, initRouting := true,
    ht := [⟨.mmio 0x3F201018, 32⟩, ⟨.mmio 0x3F200094, 32⟩, ⟨.mmio 0x3F201024, 16⟩, ⟨.mmio 0x3F201000, 8⟩,
           ⟨.sysreg .mask, 64⟩, ⟨.sysreg .trapctl, 64⟩, ⟨.sysreg .coreid, 64⟩, ⟨.sysreg .vbar, 64⟩,
           ⟨.mmio 0x3F003008, 64⟩, ⟨.sysreg .spsel, 64⟩],
    pt := [⟨0x3F200000, 3, 6, 54⟩, ⟨0x3F20001C, 1, 2, 54⟩, ⟨0x3F300000, 32, 6, 6⟩, ⟨0x3F300100, 5, 2, 12⟩,
           ⟨0x3F300200, 7, 2, 8⟩],
    groupCode := GroupCodes.default, classCode := ClassCodes.default }

/-- The draws of one core at reset (10_state.md R17, R31): VBAR, ELR, ESR, FAR, TRAPCTL and SPSEL bit 0. -/
structure Draw where
  vbar : Word
  elr : Word
  esr : Word
  far : Word
  trapctl : Word
  spsel : BitVec 1
deriving DecidableEq, Repr, Inhabited

/-- The draws of `State.reset`: zero, and 1 for SPSEL bit 0, the value of the spec's own default start state
(95_test_vectors.md section 0; 92_eei_decisions.md D19). DESIGN CHOICE, unsafe (log entry 2). -/
def Draw.chosen : Draw := { vbar := 0, elr := 0, esr := 0, far := 0, trapctl := 0, spsel := 1 }

/-- FREE VALUE (20_memory.md R44, 93_implementation_defined.md U7): what the environment answers to a bus read
that no storage location and no scripted answer covers. Log entry 5. -/
opaque Config.freeBusRead : Nat → Word

/-- FREE VALUE (42_system_ops.md R113, U6): whether the host honours an exit request. Log entry 6. -/
opaque Config.freeHonour : Nat → Bool

/-- FREE VALUE (10_state.md R17, U8): the draws of a core at an external reset that brings none. Log entry 7. -/
opaque Config.freeDraw : Nat → Draw

end Sys2Proof
end

