-- ==== Sys2Proof/Machine/State.lean ====
section
/-! DEFINITION. The state of the machine (10_state.md): per core the run state, the three registers the block
writes, the system registers, the handle caches, the pending traps, the command port, and the histories; the
machine-wide TERMINATED flag; and, as the model's own fields, the configuration and the environment's part (what
it will present next, the devices it shows behind the bus, and how it answers). Plain data throughout. -/

namespace Sys2Proof.Machine

/-- RUN[c] (R12). -/
inductive RunState where
  /-- held in reset, the boot sequence not yet run -/
  | reset
  /-- accepts commands; traps can be delivered -/
  | running
  /-- the permanent halt state -/
  | halted
  /-- no defined behaviour from here (60_exceptions.md R142); never a final state -/
  | faulted
deriving DecidableEq, Repr

/-- STATUS, the outcome a command leaves on the port (R26). -/
inductive Status where
  | ok | fatal
deriving DecidableEq, Repr

/-- The fatal causes of 60_exceptions.md R130. -/
inductive FatalCode where
  | valueRange | pinRange | fieldGeometry | badCommand | badIndex | unconstructed | readOnly
deriving DecidableEq, Repr

/-- The direction of an access (R29). -/
inductive AccessKind where
  | read | write
deriving DecidableEq, Repr

/-- One entry of a core's access history, bus and system-register accesses in one issue order (R29,
20_memory.md R48). -/
inductive Access where
  /-- `(kind, addr, n, value)` of BUS[c] -/
  | bus (kind : AccessKind) (addr : Word) (bytes : Nat) (value : Word)
  /-- `(kind, id, value)` of SYS[c] -/
  | sys (kind : AccessKind) (reg : SysReg) (value : Word)
deriving DecidableEq, Repr

/-- The records of the diagnostic port (R27). -/
inductive DiagRecord where
  | coreReport (coreId : Word)
  | configError (code : BitVec 8) (cmd : CmdWord) (wdata : Word)
  | trapReport (group cls : BitVec 4) (elr esr far : Word)
deriving DecidableEq, Repr

/-- The level a trap was raised from (60_exceptions.md R135). -/
inductive Origin where
  | current | lower
deriving DecidableEq, Repr

/-- What a trap event carries beside its class (R135), and what a pending class records (R138). -/
structure TrapRecord where
  origin : Origin
  elr : Word
  esr : Word
  far : Word
deriving DecidableEq, Repr

/-- What the environment presents to the machine (R10 (d), R29): the model's own list of them says which agent
moves next and stands for any interleaving. -/
inductive Input where
  /-- a command on a core's command port (R26) -/
  | command (core : Nat) (cmd : CmdWord) (wdata : Word)
  /-- the core's boot sequence takes its step (43_stack_base.md R120) -/
  | boot (core : Nat)
  /-- a trap event (60_exceptions.md R135) -/
  | trap (core : Nat) (cls : TrapClass) (event : TrapRecord)
  /-- the EVD chooses this boundary to deliver a deliverable class (R138, R139) -/
  | deliver (core : Nat) (cls : TrapClass)
  /-- a device location becomes plain storage holding a byte, or stops being plain storage (20_memory.md R44) -/
  | device (addr : Word) (content : Option Byte)
  /-- the external reset, with the fresh draws of the cores (70_reset_and_hazards.md R160) -/
  | reset (draws : List Draw)
deriving DecidableEq, Repr

/-- The bus locations the environment shows as plain storage (a STORAGE device, 20_memory.md R44), with their
bytes: addresses strictly rising. An address not listed is not storage: reading it is answered by the environment,
so it has no value here. -/
abbrev Memory := List Host.Cell

/-- The canonical form of a memory: addresses strictly rising and inside the 64-bit bus space (R40). -/
abbrev Memory.wf (m : Memory) : Prop :=
  m.Pairwise (fun x y => x.1 < y.1) ∧ ∀ x ∈ m, x.1 < 2 ^ 64

/-- The state of one core. The registers that the spec leaves without a value after reset (SP[0], SP[1], ARG0, pc)
each have a flag beside them, false until the block writes the register (R14 to R16, R31). -/
structure Core where
  /-- RUN[c] (R12) -/
  run : RunState
  /-- SP[0], the shared stack pointer (R14) -/
  sp0 : Word
  /-- SP[0] holds a value -/
  sp0Written : Bool
  /-- SP[1], the dedicated stack pointer (R14) -/
  sp1 : Word
  /-- SP[1] holds a value -/
  sp1Written : Bool
  /-- ARG0 (R15) -/
  arg0 : Word
  /-- ARG0 holds a value -/
  arg0Written : Bool
  /-- pc (R16) -/
  pc : Word
  /-- pc holds a value -/
  pcWritten : Bool
  /-- SR[VBAR] (R19) -/
  vbar : Word
  /-- the hidden flag VBAR_WRITTEN (R19) -/
  vbarWritten : Bool
  /-- SR[ELR] (R20) -/
  elr : Word
  /-- SR[ESR] (R20) -/
  esr : Word
  /-- SR[FAR] (R20) -/
  far : Word
  /-- the four implemented bits 9:6 of SR[MASK] (R21) -/
  mask : BitVec 4
  /-- SR[TRAPCTL] (R22) -/
  trapctl : Word
  /-- the one implemented bit of SR[SPSEL] (R23) -/
  spsel : BitVec 1
  /-- cache[h] for h below NH; `none` is unconstructed (R24) -/
  caches : List (Option Word)
  /-- PEND[IRQ] and its recorded event; `none` is not pending (R28, R138) -/
  pendIrq : Option TrapRecord
  /-- PEND[FIQ] and its recorded event -/
  pendFiq : Option TrapRecord
  /-- PEND[SError] and its recorded event -/
  pendSError : Option TrapRecord
  /-- CMD, the command word on the port (R26) -/
  cmd : CmdWord
  /-- WDATA (R26) -/
  wdata : Word
  /-- RDATA of the last command; `none` where that command gave it no value (R26) -/
  rdata : Option Word
  /-- STATUS of the last command; `none` where it never completed (R26) -/
  status : Option Status
  /-- DIAG[c], oldest first (R27) -/
  diag : List DiagRecord
  /-- BUS[c] and SYS[c] in their common issue order, oldest first (R29, R48) -/
  accesses : List Access
  /-- the pulses on EXITREQ, oldest first: whether the host honoured each (R29 (d), R113) -/
  exitReqs : List Bool
deriving DecidableEq, Repr

/-- The state of the machine. -/
structure State where
  /-- CFG (R2); no step changes it -/
  cfg : Config
  /-- TERMINATED (R13) -/
  terminated : Bool
  /-- the cores 0 to NCORES - 1 (R10) -/
  cores : List Core
  /-- the core whose transition runs (the model's own) -/
  cur : Nat
  /-- what the environment presents next, first to last (the model's own) -/
  inputs : List Input
  /-- the storage locations behind the bus (the environment's) -/
  mem : Memory
  /-- scripted answers to bus reads outside storage, first to last (the environment's) -/
  answers : List Word
  /-- scripted answers to exit requests, first to last (the environment's) -/
  honours : List Bool
  /-- how many free values have been drawn (the model's own) -/
  drawn : Nat
deriving DecidableEq, Repr

/-- Why the machine stops with a fault. -/
inductive Fault where
  /-- Raised by a step at which nothing is presented, and no core is to boot, while a core is FAULTED, TERMINATED or
  not: the block has no defined behaviour from there and that state is never final (60_exceptions.md R142, 70_reset_and_hazards.md R171). Safe: no claim
  about a run that goes on past it can be proved. -/
  | undefinedVector
deriving DecidableEq, Repr

/-- Why the model has no next state to give. -/
inductive Refusal where
  /-- Raised by an arm of exec whose instruction has no meaning yet: none here. Safe. -/
  | notModelled (mnemonic : String)
  /-- Raised where the configuration is not well formed: the model is not defined for it (00_scope.md R3). Safe. -/
  | malformedConfig
  /-- Raised by a meaning run where the port accepts no command: the core does not exist, is not RUNNING, or the
  machine is TERMINATED (10_state.md R26). No step raises it: step drops such a command. Safe. -/
  | notAccepted
  /-- Raised by a bus write that lands in the vector table, which the spec has the model refuse
  (20_memory.md R51). Safe. -/
  | vectorTableWrite
  /-- Raised by a step at which nothing is presented and no unit has a step of its own to take: the machine waits
  for its environment (10_state.md R10). Safe. -/
  | awaitingInput
  /-- Raised by a step at which nothing is presented and the run is over: TERMINATED, or every core HALTED,
  and no core FAULTED (70_reset_and_hazards.md R171). Safe. -/
  | runOver
deriving DecidableEq, Repr

/-- The outcome of a transition. -/
abbrev Result := Host.Outcome State Fault Refusal

/-- A core in reset with the given draws (R31). SP, ARG0 and pc hold no value: they are zero with their flags
false (DESIGN CHOICE, log entry 3); the port is idle with CMD and WDATA zero (DESIGN CHOICE, log entry 4). -/
def Core.reset (nh : Nat) (d : Draw) : Core :=
  { run := .reset, sp0 := 0, sp0Written := false, sp1 := 0, sp1Written := false, arg0 := 0, arg0Written := false,
    pc := 0, pcWritten := false, vbar := d.vbar, vbarWritten := false, elr := d.elr, esr := d.esr, far := d.far,
    mask := 0b1111, trapctl := d.trapctl, spsel := d.spsel, caches := List.replicate nh none,
    pendIrq := none, pendFiq := none, pendSError := none, cmd := 0, wdata := 0, rdata := none, status := none,
    diag := [], accesses := [], exitReqs := [] }

/-- The machine right after reset (R31, 70_reset_and_hazards.md R160), with nothing presented, no storage behind
the bus and no scripted answer. -/
def State.reset : State :=
  { cfg := Config.cfgT, terminated := false,
    cores := List.replicate Config.cfgT.ncores (Core.reset Config.cfgT.nh Draw.chosen),
    cur := 0, inputs := [], mem := [], answers := [], honours := [], drawn := 0 }

end Sys2Proof.Machine
end

