-- ==== Sys2Proof/Machine/Flags.lean ====
section
/-! DEFINITION. The block has no condition codes (10_state.md R30). What it has in their place is here: the bits
of MASK, TRAPCTL and SPSEL that have an effect, the pending bits, and when an asynchronous class is deliverable
(10_state.md R21 to R23, R28; 60_exceptions.md R136 to R138). -/

namespace Sys2Proof.Machine

/-- SR[MASK] as a 64-bit register: the four implemented bits at 9:6, the others zero (R21). -/
def Core.maskValue (c : Core) : Word := BitVec.setWidth 64 c.mask <<< 6

/-- SR[SPSEL] as a 64-bit register: bit 0, the others zero (R23). -/
def Core.spselValue (c : Core) : Word := BitVec.setWidth 64 c.spsel

/-- SPSEL bit 0 selects the dedicated stack SP[1] (R14, R23). -/
def Core.dedicatedStack (c : Core) : Bool := c.spsel.getLsbD 0

/-- The MASK bit of a class is 1 (R21): A, I, F of SError, IRQ, FIQ, and the inert S of the synchronous class. -/
def Core.masked (c : Core) : TrapClass → Bool
  | .synchronous => c.maskValue.getLsbD 9
  | .serror => c.maskValue.getLsbD 8
  | .irq => c.maskValue.getLsbD 7
  | .fiq => c.maskValue.getLsbD 6

/-- The TRAPCTL route bit of a class is 1 (R22); synchronous traps have no route bit and are always routed here
(60_exceptions.md R147). -/
def Core.routed (c : Core) : TrapClass → Bool
  | .irq => c.trapctl.getLsbD 1
  | .fiq => c.trapctl.getLsbD 2
  | .serror => c.trapctl.getLsbD 3
  | .synchronous => true

/-- TRAPCTL.RW, bit 10: lower levels run in the 64-bit execution state (R22). -/
def Core.lowerIs64 (c : Core) : Bool := c.trapctl.getLsbD 10

/-- PEND[k] with its recorded event (R28, R138). A synchronous trap is never held pending (R137). -/
def Core.pending (c : Core) : TrapClass → Option TrapRecord
  | .irq => c.pendIrq
  | .fiq => c.pendFiq
  | .serror => c.pendSError
  | .synchronous => none

/-- Set PEND[k] and record the event, replacing an earlier one of the class (R138). -/
def Core.setPending (c : Core) (k : TrapClass) (e : TrapRecord) : Core :=
  match k with
  | .irq => { c with pendIrq := some e }
  | .fiq => { c with pendFiq := some e }
  | .serror => { c with pendSError := some e }
  | .synchronous => c

/-- The class is deliverable on the core (R138), TERMINATED apart. -/
def Core.deliverable (c : Core) (k : TrapClass) : Bool :=
  decide (c.run = .running) && (c.pending k).isSome && !c.masked k && c.routed k

/-- The group of a trap (R136). -/
def Core.trapGroup (c : Core) : Origin → Group
  | .current => if c.dedicatedStack then .currentSPx else .currentSP0
  | .lower => if c.lowerIs64 then .lowerAArch64 else .lowerAArch32

end Sys2Proof.Machine
end

