-- ==== Sys2Proof/Machine/Operands.lean ====
section
/-! DEFINITION. Operand forms: bit fields on unbounded naturals (00_scope.md R4), the data-operand range check
(30_encoding.md R67), the core-id field (10_state.md R18) and the geometry of packed-array elements
(41_packed_array.md R100, 20_memory.md R54). -/

namespace Sys2Proof.Machine

/-- `mask(width) = 2^width - 1` (R4, 92_eei_decisions.md D7). -/
def maskOf (width : Nat) : Nat := 2 ^ width - 1

/-- `~_N(v) = 2^N - 1 - v` (R4). -/
def complementOf (n v : Nat) : Nat := 2 ^ n - 1 - v

/-- The field of `v` at `shift` of the given width: `(v >> shift) & mask(width)` (40_scalar_register.md R88). -/
def extractField (v shift width : Nat) : Nat := (v >>> shift) &&& maskOf width

/-- The field-write formula `(old & ~_W(mask(width) << shift)) | (value << shift)` (40_scalar_register.md R89). -/
def insertField (w old shift width value : Nat) : Nat :=
  (old &&& complementOf w (maskOf width <<< shift)) ||| (value <<< shift)

/-- The data operand fits in `width` bits: it is compared whole, never truncated first (R67). -/
def fits (wdata : Word) (width : Nat) : Bool := decide (wdata.toNat < 2 ^ width)

/-- The masked core-id field of an identification register value (10_state.md R18, 43_stack_base.md R121). -/
def coreIdField (cfg : Config) (raw : Word) : Word :=
  BitVec.ofNat 64 (extractField raw.toNat cfg.cidShift cfg.cidWidth)

/-- The stack top of a core id, wrapping modulo 2^64 (43_stack_base.md R121). -/
def stackTop (cfg : Config) (id : Word) : Word := cfg.ramTop - id * cfg.stackSize

/-- `fields_per_word = 32 div sz` (R100). -/
def fieldsPerWord (p : PackedArray) : Nat := 32 / p.sz

/-- `word_index = pin div fields_per_word` (R100). -/
def wordIndex (p : PackedArray) (pin : Nat) : Nat := pin / fieldsPerWord p

/-- `bit_offset = (pin mod fields_per_word) * sz` (R100). -/
def bitOffset (p : PackedArray) (pin : Nat) : Nat := pin % fieldsPerWord p * p.sz

/-- The address of the word that owns `pin`: `(base + 4 * word_index) mod 2^64` (R54). -/
def wordAddr (p : PackedArray) (pin : Nat) : Word :=
  p.base + BitVec.ofNat 64 (4 * wordIndex p pin)

end Sys2Proof.Machine
end

