-- ==== Sys2Proof/Machine/Platform.lean ====
section
/-! DEFINITION. Which configurations are well formed (00_scope.md R2, R3). The model is defined for no other. -/

namespace Sys2Proof

/-- R3 (a), (b), (c) for one handle. -/
def Handle.wf (d : Handle) : Bool :=
  match d.loc with
  | .mmio addr => [8, 16, 32, 64].contains d.width && addr.toNat % (d.width / 8) == 0
  | .sysreg _ => d.width == 64

/-- R3 (d) for one packed array. -/
def PackedArray.wf (p : PackedArray) : Bool :=
  decide (1 ≤ p.sz) && decide (p.sz ≤ 32) && p.base.toNat % 4 == 0 && decide (1 ≤ p.nwords)
    && decide (p.maxPins ≤ p.nwords * (32 / p.sz)) && decide (p.maxPins ≤ 65536)

/-- The group codes are injective and current-SPx has the source's code (R2, R3 (f)). -/
def GroupCodes.wf (g : GroupCodes) : Bool :=
  decide [g.lowerAArch32, g.lowerAArch64, g.currentSPx, g.currentSP0].Nodup && g.currentSPx == 2

/-- The class codes are injective and synchronous has the source's code (R2, R3 (f)). -/
def ClassCodes.wf (k : ClassCodes) : Bool :=
  decide [k.serror, k.fiq, k.irq, k.synchronous].Nodup && k.synchronous == 3

/-- The configuration is well formed (R2, R3). -/
def Config.wf (cfg : Config) : Bool :=
  decide (1 ≤ cfg.ncores) && cfg.coreidRaw.length == cfg.ncores
    && decide (cfg.nh ≤ 256) && decide (cfg.na ≤ 256) && cfg.ht.all Handle.wf && cfg.pt.all PackedArray.wf
    && cfg.vtBase.toNat % 2048 == 0 && cfg.groupCode.wf && cfg.classCode.wf
    && decide (1 ≤ cfg.cidWidth) && decide (cfg.cidShift + cfg.cidWidth ≤ 64)

end Sys2Proof
end

