-- ==== Sys2Proof/Machine/Vectors.lean ====
section
/-! DEFINITION. The vector table: slots, entry addresses, tag codes and tags (30_encoding.md R69, R70;
60_exceptions.md R140, R143). The slot order is the spec's own, from general knowledge (R69, D23). -/

namespace Sys2Proof.Machine

/-- The 512-byte block of a group (R69). -/
def gslot : Group → Nat
  | .currentSP0 => 0
  | .currentSPx => 1
  | .lowerAArch64 => 2
  | .lowerAArch32 => 3

/-- The 128-byte slot of a class in its block (R69). -/
def cslot : TrapClass → Nat
  | .synchronous => 0
  | .irq => 1
  | .fiq => 2
  | .serror => 3

/-- The offset of a slot in the table (R69). -/
def slotOffset (g : Group) (k : TrapClass) : Nat := 0x200 * gslot g + 0x080 * cslot k

/-- The entry address of a slot, modulo 2^64 (R69, R140). -/
def entryAddress (vbar : Word) (g : Group) (k : TrapClass) : Word := vbar + BitVec.ofNat 64 (slotOffset g k)

/-- CFG.GROUP_CODE (R70). -/
def groupCode (cfg : Config) : Group → BitVec 4
  | .lowerAArch32 => cfg.groupCode.lowerAArch32
  | .lowerAArch64 => cfg.groupCode.lowerAArch64
  | .currentSPx => cfg.groupCode.currentSPx
  | .currentSP0 => cfg.groupCode.currentSP0

/-- CFG.CLASS_CODE (R70). -/
def classCode (cfg : Config) : TrapClass → BitVec 4
  | .serror => cfg.classCode.serror
  | .fiq => cfg.classCode.fiq
  | .irq => cfg.classCode.irq
  | .synchronous => cfg.classCode.synchronous

/-- The tag of a slot, `(GROUP_CODE << 4) | CLASS_CODE` in 8 bits (R70, R143). -/
def trapTag (cfg : Config) (g : Group) (k : TrapClass) : BitVec 8 :=
  (BitVec.setWidth 8 (groupCode cfg g) <<< 4) ||| BitVec.setWidth 8 (classCode cfg k)

/-- The group code the handler recovers, `tag >> 4` (R144). -/
def tagGroup (tag : BitVec 8) : BitVec 4 := BitVec.setWidth 4 (tag >>> 4)

/-- The class code the handler recovers, `tag & 0xf` (R144). -/
def tagClass (tag : BitVec 8) : BitVec 4 := BitVec.setWidth 4 (tag &&& 0xf)

end Sys2Proof.Machine
end

