-- ==== Sys2Proof/Machine/Ops.lean ====
section
/-! DEFINITION. The shared operations: the issuing core, acceptance and completion of a command (10_state.md R26),
the storage behind the bus and the four access primitives (20_memory.md R41 to R47), the handle checks and the two
backends (40_scalar_register.md R80), the fatal path (60_exceptions.md R130, R131), and taking a trap: entry, stub
and handler in one (R136 to R145). There is no return from a trap (R145), so no operation returns from one. -/

namespace Sys2Proof.Machine

/-! ### The issuing core -/

/-- The core whose transition runs; outside the machine's cores, a core in reset. -/
def State.core (s : State) : Core := s.cores.getD s.cur (Core.reset 0 Draw.chosen)

/-- Update the core whose transition runs. -/
def State.onCore (s : State) (f : Core → Core) : State := { s with cores := s.cores.modify s.cur f }

/-- Make core `c` the one whose transition runs. -/
def State.atCore (s : State) (c : Nat) : State := { s with cur := c }

/-- Set RUN (R12). -/
abbrev State.setRun (s : State) (r : RunState) : State := s.onCore fun c => { c with run := r }

/-- `cache[h] <- v` (R24): the handle becomes constructed. -/
abbrev State.setCache (s : State) (h : Nat) (v : Word) : State :=
  s.onCore fun c => { c with caches := c.caches.set h (some v) }

/-- `cache[h]`, `none` when unconstructed (R24). -/
def Core.cache (c : Core) (h : Nat) : Option Word := (c.caches[h]?).join

/-- Append to the access history (R29, 20_memory.md R48). -/
abbrev State.logAccess (s : State) (a : Access) : State :=
  s.onCore fun c => { c with accesses := c.accesses ++ [a] }

/-- `emit DIAG(record)` (R27). -/
abbrev State.emit (s : State) (r : DiagRecord) : State := s.onCore fun c => { c with diag := c.diag ++ [r] }

/-! ### The command port -/

/-- Core `c` accepts a command: it is RUNNING and the machine is not TERMINATED (R26). -/
def State.accepts (s : State) (c : Nat) : Bool :=
  !s.terminated && (match s.cores[c]? with
    | some k => decide (k.run = .running)
    | none => false)

/-- A command stands on core `c`'s port: CMD and WDATA are latched, and the outcome of the one before is gone
(R26). -/
def State.present (s : State) (c : Nat) (cmd : CmdWord) (wdata : Word) : State :=
  (s.atCore c).onCore fun k => { k with cmd := cmd, wdata := wdata, rdata := none, status := none }

/-- Run the body of a command where the port accepts one: a well-formed configuration (00_scope.md R3) and an
accepting core (R26). -/
def issue (s : State) (body : Result) : Result :=
  if s.cfg.wf then
    if s.accepts s.cur then body else .refused .notAccepted
  else .refused .malformedConfig

/-- `STATUS <- OK`, and RDATA as the command's rule gives it (R26). -/
def complete (rdata : Option Word) (s : State) : Result :=
  .next (s.onCore fun c => { c with rdata := rdata, status := some .ok })

/-- The number of a fatal cause (60_exceptions.md R130). -/
def FatalCode.number : FatalCode → BitVec 8
  | .valueRange => 1
  | .pinRange => 2
  | .fieldGeometry => 3
  | .badCommand => 4
  | .badIndex => 5
  | .unconstructed => 6
  | .readOnly => 7

/-- The core after `raise Fatal(code)`: the ConfigError record, STATUS FATAL, no RDATA, HALTED (60_exceptions.md
R131). -/
def Core.failed (c : Core) (code : FatalCode) : Core :=
  { c with diag := c.diag ++ [.configError code.number c.cmd c.wdata], status := some .fatal, rdata := none,
           run := .halted }

/-- `raise Fatal(code)`: the fatal path is the whole effect of the command (60_exceptions.md R131). -/
def raiseFatal (code : FatalCode) (s : State) : Result := .next (s.onCore fun c => c.failed code)

/-! ### The bus -/

/-- The byte of a storage location; `none` where the location is not plain storage. -/
def Memory.read : Memory → Nat → Option Byte
  | [], _ => none
  | (x, b) :: m, a => if x = a then some b else Memory.read m a

/-- A bus write of one byte: a storage location then holds it; another location keeps to the environment. -/
def Memory.write (m : Memory) (a : Nat) (b : Byte) : Memory := m.map fun x => if x.1 = a then (a, b) else x

/-- The environment makes a location plain storage holding a byte. -/
def Memory.insert : Memory → Nat → Byte → Memory
  | [], a, b => [(a, b)]
  | (x, y) :: m, a, b =>
    if a < x then (a, b) :: (x, y) :: m
    else if x = a then (a, b) :: m
    else (x, y) :: Memory.insert m a b

/-- The environment takes a location out of the plain storage. -/
def Memory.erase (m : Memory) (a : Nat) : Memory := m.filter fun x => x.1 != a

/-- The little-endian value of `n` storage bytes at `a` (20_memory.md R41); `none` unless all are storage. -/
def Memory.readLE (m : Memory) (a : Nat) : Nat → Option Nat
  | 0 => some 0
  | n + 1 =>
    match Memory.read m a, Memory.readLE m (a + 1) n with
    | some b, some v => some (b.toNat + 256 * v)
    | _, _ => none

/-- Write the low `n` bytes of `v` at `a`, little-endian (20_memory.md R41). -/
def Memory.writeLE (m : Memory) (a : Nat) : Nat → Nat → Memory
  | 0, _ => m
  | n + 1, v => Memory.writeLE (Memory.write m a (BitVec.ofNat 8 v)) (a + 1) n (v / 256)

/-- A value of `n` bytes: the low `8n` bits. -/
def lowBytes (n : Nat) (v : Word) : Word := BitVec.ofNat 64 (v.toNat % 2 ^ (8 * n))

/-- The environment's answer to a read of `n` bytes (20_memory.md R44, R45): what the storage there holds, else the
next scripted answer, else a free value. -/
def State.busAnswer (s : State) (addr : Word) (n : Nat) : Word × State :=
  match Memory.readLE s.mem addr.toNat n with
  | some v => (BitVec.ofNat 64 v, s)
  | none =>
    match s.answers with
    | a :: rest => (lowBytes n a, { s with answers := rest })
    | [] => (lowBytes n (Config.freeBusRead s.drawn), { s with drawn := s.drawn + 1 })

/-- `MemRead(addr, n)` (20_memory.md R45). -/
def memRead (addr : Word) (n : Nat) (s : State) : Word × State :=
  ((s.busAnswer addr n).1, (s.busAnswer addr n).2.logAccess (.bus .read addr n (s.busAnswer addr n).1))

/-- An access of `n` bytes at `addr` touches the vector table `[VT_BASE, VT_BASE + 2048)` (20_memory.md R51). -/
def inVectorTable (cfg : Config) (addr : Word) (n : Nat) : Bool :=
  decide (addr.toNat < cfg.vtBase.toNat + 2048) && decide (cfg.vtBase.toNat < addr.toNat + n)

/-- `MemWrite(addr, n, v)` (20_memory.md R46), refused in the vector table (R51). -/
def memWrite (addr : Word) (n : Nat) (v : Word) (s : State) : Except Refusal State :=
  if inVectorTable s.cfg addr n then .error .vectorTableWrite
  else .ok ({ s with mem := Memory.writeLE s.mem addr.toNat n v.toNat }.logAccess (.bus .write addr n v))

/-! ### The system registers -/

/-- The id of a system register (10_state.md R17). -/
def regId : SysReg → Nat
  | .coreid => 0
  | .vbar => 1
  | .elr => 2
  | .esr => 3
  | .far => 4
  | .mask => 5
  | .trapctl => 6
  | .spsel => 7

/-- `SR[id]` of the issuing core (10_state.md R18 to R23). -/
def State.sysValue (s : State) : SysReg → Word
  | .coreid => s.cfg.coreidRaw.getD s.cur 0
  | .vbar => s.core.vbar
  | .elr => s.core.elr
  | .esr => s.core.esr
  | .far => s.core.far
  | .mask => s.core.maskValue
  | .trapctl => s.core.trapctl
  | .spsel => s.core.spselValue

/-- A core's system register file after a write (10_state.md R18 to R23): unimplemented bits ignore it, VBAR sets
VBAR_WRITTEN, and COREID is never written. -/
def Core.withSys (c : Core) (r : SysReg) (v : Word) : Core :=
  match r with
  | .coreid => c
  | .vbar => { c with vbar := v, vbarWritten := true }
  | .elr => { c with elr := v }
  | .esr => { c with esr := v }
  | .far => { c with far := v }
  | .mask => { c with mask := BitVec.setWidth 4 (v >>> 6) }
  | .trapctl => { c with trapctl := v }
  | .spsel => { c with spsel := BitVec.setWidth 1 v }

/-- `SysRead(id)` (20_memory.md R47). -/
def sysRead (r : SysReg) (s : State) : Word × State := (s.sysValue r, s.logAccess (.sys .read r (s.sysValue r)))

/-- `SysWrite(id, v)` (20_memory.md R47). -/
def sysWrite (r : SysReg) (v : Word) (s : State) : State :=
  (s.logAccess (.sys .write r v)).onCore fun c => c.withSys r v

/-! ### Handles and packed arrays -/

/-- `HwRead(h)` (40_scalar_register.md R80). -/
def hwRead (d : Handle) (s : State) : Word × State :=
  match d.loc with
  | .mmio addr => memRead addr (d.width / 8) s
  | .sysreg r => sysRead r s

/-- `HwWrite(h, v)` (40_scalar_register.md R80). -/
def hwWrite (d : Handle) (v : Word) (s : State) : Except Refusal State :=
  match d.loc with
  | .mmio addr => memWrite addr (d.width / 8) v s
  | .sysreg r => .ok (sysWrite r v s)

/-- Complete a command after its write, or pass on the refusal of the write (20_memory.md R51). -/
def completeWrite (w : Except Refusal State) : Result :=
  match w with
  | .ok s => complete none s
  | .error r => .refused r

/-- The index check of a handle command (30_encoding.md R73 step 2). -/
def withHandle (h : Nat) (s : State) (body : Handle → Result) : Result :=
  match s.cfg.ht[h]? with
  | some d => body d
  | none => raiseFatal .badIndex s

/-- The index check of a packed-array command (30_encoding.md R73 step 2). -/
def withArray (a : Nat) (s : State) (body : PackedArray → Result) : Result :=
  match s.cfg.pt[a]? with
  | some p => body p
  | none => raiseFatal .badIndex s

/-- The constructed check (40_scalar_register.md R80 (1)). -/
def withCache (h : Nat) (s : State) (body : Word → Result) : Result :=
  match s.core.cache h with
  | some v => body v
  | none => raiseFatal .unconstructed s

/-- A check of a command's own: raise `Fatal(code)` unless it holds. -/
def check (holds : Bool) (code : FatalCode) (s : State) (body : Result) : Result :=
  if holds then body else raiseFatal code s

/-- The write of a field into a handle's cache, the field-write formula of 40_scalar_register.md R89. -/
def fieldWritten (d : Handle) (old : Word) (shift width : Nat) (value : Word) : Word :=
  BitVec.ofNat 64 (insertField d.width old.toNat shift width value.toNat)

/-- The read of a field of a handle's cache (40_scalar_register.md R88). -/
def fieldRead (cached : Word) (shift width : Nat) : Word := BitVec.ofNat 64 (extractField cached.toNat shift width)

/-! ### Traps -/

/-- The dispatcher can dispatch: VBAR has been written since reset and is the table's base (10_state.md R19,
60_exceptions.md R142). -/
def Core.vectorDefined (cfg : Config) (c : Core) : Bool := c.vbarWritten && c.vbar == cfg.vtBase

/-- Trap entry (60_exceptions.md R141): status capture and the entry address, nothing else. -/
def Core.enterTrap (c : Core) (k : TrapClass) (e : TrapRecord) : Core :=
  { c with elr := e.elr, esr := e.esr, far := e.far,
           pc := entryAddress c.vbar (c.trapGroup e.origin) k, pcWritten := true }

/-- The stub (60_exceptions.md R143): `x[ARG0] <- zext_64(tag)`. -/
def Core.stub (c : Core) (tag : BitVec 8) : Core :=
  { c with arg0 := BitVec.setWidth 64 tag, arg0Written := true }

/-- The shared handler and the reporter (60_exceptions.md R144): decode the tag from ARG0, read ELR, ESR and FAR in
that order, emit the report, halt. -/
def trapHandler (s : State) : State :=
  let tag : BitVec 8 := BitVec.setWidth 8 s.core.arg0
  let (e, s1) := sysRead .elr s
  let (y, s2) := sysRead .esr s1
  let (f, s3) := sysRead .far s2
  (s3.emit (.trapReport (tagGroup tag) (tagClass tag) e y f)).setRun .halted

/-- TAKING A TRAP on the issuing core: entry, stub, handler, report and halt in one transition (10_state.md R11,
60_exceptions.md R140 to R145); FAULTED, and nothing else written, where the vector is undefined (R142). -/
def takeTrap (k : TrapClass) (e : TrapRecord) (s : State) : State :=
  if s.core.vectorDefined s.cfg then
    let tag := trapTag s.cfg (s.core.trapGroup e.origin) k
    trapHandler (s.onCore fun c => (c.enterTrap k e).stub tag)
  else s.setRun .faulted

end Sys2Proof.Machine
end

