-- ==== Sys2Proof/Machine/Boot.lean ====
section
/-! DEFINITION. The stack-base computer: the boot sequence and the primary/secondary gate (43_stack_base.md R120 to
R124), and the external reset (70_reset_and_hazards.md R160, R161). -/

namespace Sys2Proof.Machine

/-- `x[SP] <- top`: the stack pointer SPSEL bit 0 selects (10_state.md R14, R121). -/
def Core.setSP (c : Core) (top : Word) : Core :=
  if c.dedicatedStack then { c with sp1 := top, sp1Written := true } else { c with sp0 := top, sp0Written := true }

/-- `x[ARG0] <- v` (10_state.md R15). -/
def Core.setArg0 (c : Core) (v : Word) : Core := { c with arg0 := v, arg0Written := true }

/-- `pc <- target` (10_state.md R16). -/
def Core.setPc (c : Core) (target : Word) : Core := { c with pc := target, pcWritten := true }

/-- The sequence of R121: the id, the stack pointer, the id as an argument if configured, the entry point. -/
def bootSequence (s : State) : Word × State :=
  let (r, s1) := sysRead .coreid s
  let id := coreIdField s.cfg r
  let s2 := s1.onCore fun c => c.setSP (stackTop s.cfg id)
  let s3 := if s.cfg.passCoreid then s2.onCore fun c => c.setArg0 id else s2
  (id, s3.onCore fun c => c.setPc s.cfg.entry)

/-- The gate of R122: id 0 proceeds; another id is reported and the core halts. -/
def bootGate (id : Word) (s : State) : State :=
  if id = 0 then s.setRun .running else (s.emit (.coreReport id)).setRun .halted

/-- The boot transition of the issuing core: the sequence, then the gate, which derives the id again where it was
not passed (R121, R122). -/
def bootCore (s : State) : State :=
  let (id, s1) := bootSequence s
  if s.cfg.passCoreid then bootGate id s1
  else
    let (r, s2) := sysRead .coreid s1
    bootGate (coreIdField s.cfg r) s2

/-- The external reset: every core to RESET with fresh draws, TERMINATED cleared, histories empty; what lies behind
the bus is the environment's and stays (R160, R161). A core the input brings no draws for gets free ones. -/
def externalReset (draws : List Draw) (s : State) : State :=
  { s with
    terminated := false, cur := 0, drawn := s.drawn + s.cfg.ncores,
    cores := (List.range s.cfg.ncores).map fun i =>
      Core.reset s.cfg.nh (draws.getD i (Config.freeDraw (s.drawn + i))) }

end Sys2Proof.Machine
end

