-- ==== Sys2Proof/Machine/Packed.lean ====
section
/-! DEFINITION. The packed register array commands of 41_packed_array.md. -/

namespace Sys2Proof.Machine

/-- PFETCH a, pin (R101). -/
def execPfetch (a pin : Nat) (s : State) : Result :=
  issue s <| withArray a s fun p =>
    check (pin < p.maxPins) .pinRange s <|
      let (w, s') := memRead (wordAddr p pin) 4 s
      complete (some (fieldRead w (bitOffset p pin) p.sz)) s'

/-- PSTORE a, pin, WDATA (R102): one read and one write of the owning word; the bits outside the element go back as
read (R103). -/
def execPstore (a pin : Nat) (s : State) : Result :=
  issue s <| withArray a s fun p =>
    check (pin < p.maxPins) .pinRange s <| check (fits s.core.wdata p.sz) .valueRange s <|
      let (w, s') := memRead (wordAddr p pin) 4 s
      let w' := BitVec.ofNat 64 (insertField 32 w.toNat (bitOffset p pin) p.sz s.core.wdata.toNat)
      completeWrite (memWrite (wordAddr p pin) 4 w' s')

end Sys2Proof.Machine
end

