-- ==== Sys2Proof/Machine/Scalar.lean ====
section
/-! DEFINITION. The scalar register commands of 40_scalar_register.md. Each begins at the index check: the word has
matched its row by then (30_encoding.md R73). The checks stand in the order of R80. -/

namespace Sys2Proof.Machine

/-- NEWZ h (R81). -/
def execNewz (h : Nat) (s : State) : Result :=
  issue s <| withHandle h s fun _ => complete none (s.setCache h 0)

/-- NEWV h, WDATA (R82). -/
def execNewv (h : Nat) (s : State) : Result :=
  issue s <| withHandle h s fun d =>
    check (fits s.core.wdata d.width) .valueRange s <| complete none (s.setCache h s.core.wdata)

/-- NEWF h (R83). -/
def execNewf (h : Nat) (s : State) : Result :=
  issue s <| withHandle h s fun d =>
    let (v, s') := hwRead d s
    complete (some v) (s'.setCache h v)

/-- GETV h (R84). -/
def execGetv (h : Nat) (s : State) : Result :=
  issue s <| withHandle h s fun _ => withCache h s fun v => complete (some v) s

/-- SETV h, WDATA (R85). -/
def execSetv (h : Nat) (s : State) : Result :=
  issue s <| withHandle h s fun d => withCache h s fun _ =>
    check (fits s.core.wdata d.width) .valueRange s <| complete none (s.setCache h s.core.wdata)

/-- FETCH h (R86). -/
def execFetch (h : Nat) (s : State) : Result :=
  issue s <| withHandle h s fun d => withCache h s fun _ =>
    let (v, s') := hwRead d s
    complete (some v) (s'.setCache h v)

/-- STORE h (R87). -/
def execStore (h : Nat) (s : State) : Result :=
  issue s <| withHandle h s fun d => withCache h s fun v =>
    check (d.loc != .sysreg .coreid) .readOnly s <| completeWrite (hwWrite d v s)

/-- GETBITS h, shift, width (R88). -/
def execGetbits (h shift width : Nat) (s : State) : Result :=
  issue s <| withHandle h s fun d => withCache h s fun v =>
    check (shift + width ≤ d.width) .fieldGeometry s <| complete (some (fieldRead v shift width)) s

/-- SETBITS h, shift, width, WDATA (R89). -/
def execSetbits (h shift width : Nat) (s : State) : Result :=
  issue s <| withHandle h s fun d => withCache h s fun v =>
    check (shift + width ≤ d.width) .fieldGeometry s <| check (fits s.core.wdata width) .valueRange s <|
      complete none (s.setCache h (fieldWritten d v shift width s.core.wdata))

/-- GETBIT h, bit (R90). -/
def execGetbit (h bit : Nat) (s : State) : Result :=
  issue s <| withHandle h s fun d => withCache h s fun v =>
    check (bit < d.width) .fieldGeometry s <| complete (some (fieldRead v bit 1)) s

/-- SETBIT h, bit, WDATA (R91). -/
def execSetbit (h bit : Nat) (s : State) : Result :=
  issue s <| withHandle h s fun d => withCache h s fun v =>
    check (bit < d.width) .fieldGeometry s <| check (fits s.core.wdata 1) .valueRange s <|
      complete none (s.setCache h (fieldWritten d v bit 1 s.core.wdata))

end Sys2Proof.Machine
end

