-- ==== Sys2Proof/Machine/System.lean ====
section
/-! DEFINITION. The system operations of 42_system_ops.md. -/

namespace Sys2Proof.Machine

/-- ROUTE_IRQ, ROUTE_FIQ, ROUTE_EA and RW of TRAPCTL: bits 1, 2, 3 and 10 (R110). -/
def routingBits : Nat := 0x40E

/-- Step 2 of INITEXC (R110): the routing controls, then the dedicated stack. -/
def initRouting (s : State) : State :=
  let (t, s1) := sysRead .trapctl s
  let t' := BitVec.ofNat 64 ((t.toNat &&& complementOf 64 routingBits) ||| routingBits)
  sysWrite .spsel 1 (sysWrite .trapctl t' s1)

/-- Step 3 of INITEXC (R110): clear the four bits of MASK at 9:6. -/
def unmaskAll (s : State) : State :=
  let (m, s1) := sysRead .mask s
  sysWrite .mask (BitVec.ofNat 64 (insertField 64 m.toNat 6 4 0)) s1

/-- INITEXC (R110): the table base, the routing controls if configured, the masks last. -/
def execInitexc (s : State) : Result :=
  issue s <|
    let s1 := sysWrite .vbar s.cfg.vtBase s
    let s2 := if s.cfg.initRouting then initRouting s1 else s1
    complete none (unmaskAll s2)

/-- GETCID (R111): the core id, read again from COREID. -/
def execGetcid (s : State) : Result :=
  issue s <|
    let (r, s') := sysRead .coreid s
    complete (some (coreIdField s.cfg r)) s'

/-- HALT (R112): the core halts for good; the command never completes. -/
def execHalt (s : State) : Result := issue s <| .next (s.setRun .halted)

/-- The host's answer to an exit request (R113): the next scripted answer, else a free value. -/
def hostAnswer (s : State) : Bool × State :=
  match s.honours with
  | b :: rest => (b, { s with honours := rest })
  | [] => (Config.freeHonour s.drawn, { s with drawn := s.drawn + 1 })

/-- POWEROFF (R113): one pulse on EXITREQ; TERMINATED if the host honours it, else HALTED; the command never
completes. -/
def execPoweroff (s : State) : Result :=
  issue s <|
    let (honoured, s1) := hostAnswer s
    let s2 := s1.onCore fun c => { c with exitReqs := c.exitReqs ++ [honoured] }
    .next (if honoured then { s2 with terminated := true } else s2.setRun .halted)

end Sys2Proof.Machine
end

