-- ==== Sys2Proof/Machine/Dispatch.lean ====
section
/-! DEFINITION. What each command does: one arm per constructor of Instr, each one direct call of its meaning. -/

namespace Sys2Proof.Machine

def exec (i : Instr) (s : State) : Host.Outcome State Fault Refusal :=
  match i with
  | .newz h => Sys2Proof.Machine.execNewz h s
  | .newv h => Sys2Proof.Machine.execNewv h s
  | .newf h => Sys2Proof.Machine.execNewf h s
  | .getv h => Sys2Proof.Machine.execGetv h s
  | .setv h => Sys2Proof.Machine.execSetv h s
  | .fetch h => Sys2Proof.Machine.execFetch h s
  | .store h => Sys2Proof.Machine.execStore h s
  | .getbits h shift width => Sys2Proof.Machine.execGetbits h shift width s
  | .setbits h shift width => Sys2Proof.Machine.execSetbits h shift width s
  | .getbit h bit => Sys2Proof.Machine.execGetbit h bit s
  | .setbit h bit => Sys2Proof.Machine.execSetbit h bit s
  | .pfetch a pin => Sys2Proof.Machine.execPfetch a pin s
  | .pstore a pin => Sys2Proof.Machine.execPstore a pin s
  | .initexc => Sys2Proof.Machine.execInitexc s
  | .getcid => Sys2Proof.Machine.execGetcid s
  | .halt => Sys2Proof.Machine.execHalt s
  | .poweroff => Sys2Proof.Machine.execPoweroff s

end Sys2Proof.Machine
end

