-- ==== Sys2Proof/Machine/Events.lean ====
section
/-! DEFINITION. The transitions of the machine (10_state.md R10, R11): what each input of the environment does, and
what the machine does when nothing is presented. One input is one transition. -/

namespace Sys2Proof.Machine

/-- Decode the command on the issuing core's port and run it; an illegal word is `Fatal(4)` (30_encoding.md R68,
R73 step 1). -/
def runPort (s : State) : Result :=
  match decode s.core.cmd with
  | .ok i => exec i s
  | .error _ => raiseFatal .badCommand s

/-- A command is presented on a core's port. Where the port accepts none the command is not taken and nothing
happens (10_state.md R26). -/
def onCommand (c : Nat) (cmd : CmdWord) (wdata : Word) (s : State) : Result :=
  if s.accepts c then runPort (s.present c cmd wdata) else .next s

/-- Core `c` is in RESET and the machine is not TERMINATED: its boot sequence can run (R12, R13, R120). -/
def State.canBoot (s : State) (c : Nat) : Bool :=
  !s.terminated && (match s.cores[c]? with
    | some k => decide (k.run = .reset)
    | none => false)

/-- The boot step of a core, taken only from RESET (43_stack_base.md R120). -/
def onBoot (c : Nat) (s : State) : State := if s.canBoot c then bootCore (s.atCore c) else s

/-- A trap event. A synchronous one is delivered at once to a core that can take it and dropped otherwise
(60_exceptions.md R137); an asynchronous one becomes pending (R138). -/
def onTrap (c : Nat) (k : TrapClass) (e : TrapRecord) (s : State) : State :=
  match k with
  | .synchronous => if s.accepts c then takeTrap .synchronous e (s.atCore c) else s
  | .irq | .fiq | .serror => (s.atCore c).onCore fun core => core.setPending k e

/-- The EVD delivers class `k` at this boundary if it is deliverable (60_exceptions.md R138, R139); PEND[k] stays
set (R141). -/
def onDeliver (c : Nat) (k : TrapClass) (s : State) : State :=
  match s.cores[c]? with
  | some core =>
    match core.pending k with
    | some e => if !s.terminated && core.deliverable k then takeTrap k e (s.atCore c) else s
    | none => s
  | none => s

/-- A location behind the bus changes by itself (20_memory.md R44). -/
def onDevice (addr : Word) (content : Option Byte) (s : State) : State :=
  match content with
  | some b => { s with mem := Memory.insert s.mem addr.toNat b }
  | none => { s with mem := Memory.erase s.mem addr.toNat }

/-- The transition an input starts. -/
def perform (i : Input) (s : State) : Result :=
  match i with
  | .command c cmd wdata => onCommand c cmd wdata s
  | .boot c => .next (onBoot c s)
  | .trap c k e => .next (onTrap c k e s)
  | .deliver c k => .next (onDeliver c k s)
  | .device addr content => .next (onDevice addr content s)
  | .reset draws => .next (externalReset draws s)

/-- A core of the machine is FAULTED (R12). -/
def State.faulted (s : State) : Bool := s.cores.any fun c => decide (c.run = .faulted)

/-- The run is over: TERMINATED, or every core HALTED; never with a core FAULTED (10_state.md R12, 60_exceptions.md
R142, 70_reset_and_hazards.md R171). -/
def State.over (s : State) : Bool :=
  !s.faulted && (s.terminated || s.cores.all fun c => decide (c.run = .halted))

/-- The core whose boot transition the machine takes by itself: the lowest one in RESET (43_stack_base.md R120; the
order is the model's, DESIGN CHOICE, log entry 8), none once TERMINATED (10_state.md R13). -/
def State.nextBoot (s : State) : Option Nat :=
  if s.terminated then none else s.cores.findIdx? fun c => decide (c.run = .reset)

/-- The machine with nothing presented and no boot to take: a FAULTED core makes the state a fault, TERMINATED or not
(60_exceptions.md R142); otherwise the run is over (70_reset_and_hazards.md R171), or the machine waits for its
environment. -/
def standstill (s : State) : Result :=
  if s.faulted then .fault .undefinedVector
  else if s.over then .refused .runOver
  else .refused .awaitingInput

/-- The machine with nothing presented: the next boot transition, or a standstill. -/
def autonomous (s : State) : Result :=
  match s.nextBoot with
  | some c => .next (bootCore (s.atCore c))
  | none => standstill s

/-- One step of the machine: the next input, or the machine's own next step. A configuration that is not well formed
has no step (00_scope.md R3). -/
def transition (s : State) : Result :=
  if s.cfg.wf then
    match s.inputs with
    | i :: rest => perform i { s with inputs := rest }
    | [] => autonomous s
  else .refused .malformedConfig

/-- Put a command on the port of the core whose turn it is, before everything else presented, and let the port
accept it: the core RUNNING, the machine not TERMINATED. WDATA is the data word the port already shows. -/
def placeCommand (cmd : CmdWord) (s : State) : State :=
  { (s.setRun .running) with terminated := false, inputs := .command s.cur cmd s.core.wdata :: s.inputs }

end Sys2Proof.Machine
end

