-- ==== Sys2Proof/Safety.lean ====
section
/-! DEFINITION. The terms claims are stated in: a core that accepts a command, what a command may leave unchanged,
the fatal outcome and the order of checks, the invariants of the machine, and safe and finished states
(60_exceptions.md R151, 70_reset_and_hazards.md R171). -/

namespace Sys2Proof.Machine

/-- The issuing core is `c` and its port accepts a command (00_scope.md R3, 10_state.md R26). -/
structure Ready (s : State) (c : Core) : Prop where
  wf : s.cfg.wf = true
  core : s.cores[s.cur]? = some c
  running : c.run = .running
  live : s.terminated = false

/-! ### Frames -/

/-- The rest of the machine is as before: the configuration, TERMINATED, what is presented, the answers to exit
requests, and every core but the issuing one (10_state.md R10). -/
structure SameMachine (s t : State) : Prop where
  cfg : t.cfg = s.cfg
  terminated : t.terminated = s.terminated
  cur : t.cur = s.cur
  inputs : t.inputs = s.inputs
  honours : t.honours = s.honours
  others : ∀ j, j ≠ s.cur → t.cores[j]? = s.cores[j]?

/-- SP[0], SP[1], ARG0 and pc are as before (10_state.md R14 to R16). -/
structure SameRegisters (c c' : Core) : Prop where
  sp0 : c'.sp0 = c.sp0
  sp0Written : c'.sp0Written = c.sp0Written
  sp1 : c'.sp1 = c.sp1
  sp1Written : c'.sp1Written = c.sp1Written
  arg0 : c'.arg0 = c.arg0
  arg0Written : c'.arg0Written = c.arg0Written
  pc : c'.pc = c.pc
  pcWritten : c'.pcWritten = c.pcWritten

/-- The system registers and VBAR_WRITTEN are as before (10_state.md R17 to R23). -/
structure SameSys (c c' : Core) : Prop where
  vbar : c'.vbar = c.vbar
  vbarWritten : c'.vbarWritten = c.vbarWritten
  elr : c'.elr = c.elr
  esr : c'.esr = c.esr
  far : c'.far = c.far
  mask : c'.mask = c.mask
  trapctl : c'.trapctl = c.trapctl
  spsel : c'.spsel = c.spsel

/-- The pending traps, the diagnostic records, the exit requests and the port's CMD and WDATA are as before. -/
structure SamePorts (c c' : Core) : Prop where
  pendIrq : c'.pendIrq = c.pendIrq
  pendFiq : c'.pendFiq = c.pendFiq
  pendSError : c'.pendSError = c.pendSError
  diag : c'.diag = c.diag
  exitReqs : c'.exitReqs = c.exitReqs
  cmd : c'.cmd = c.cmd
  wdata : c'.wdata = c.wdata

/-- Every location behind the bus reads as before: its storage byte, or the environment's answer. -/
def SameMemory (s t : State) : Prop := ∀ a, Memory.read t.mem a = Memory.read s.mem a

/-- The environment's answers to bus reads are all still to come. -/
def SameAnswers (s t : State) : Prop := t.answers = s.answers ∧ t.drawn = s.drawn

/-- Only `cache[h]` may differ (10_state.md R24). -/
def OtherCaches (h : Nat) (c c' : Core) : Prop := ∀ j, j ≠ h → c'.cache j = c.cache j

/-- What every completed register command leaves: STATUS OK, the core still RUNNING, the rest of the machine, the
core registers and the ports as before. The caches, the system registers, RDATA, the accesses and the storage
behind the bus are said beside it. -/
structure Completed (s t : State) (c c' : Core) : Prop where
  core : t.cores[t.cur]? = some c'
  status : c'.status = some .ok
  run : c'.run = .running
  machine : SameMachine s t
  registers : SameRegisters c c'
  ports : SamePorts c c'

/-- A completed command that reached no hardware: no access, no system register and no storage changed. -/
structure NoAccess (s t : State) (c c' : Core) : Prop where
  accesses : c'.accesses = c.accesses
  sys : SameSys c c'
  memory : SameMemory s t
  answers : SameAnswers s t

/-- `v` is what the environment answers to a read of `n` bytes at `addr` (20_memory.md R41, R44, R45): where all the
bytes are storage, their little-endian value, and no scripted answer is used up; elsewhere the next scripted answer,
`n` bytes of it, which is used up. Without a script nothing is said (log entry 5). -/
structure BusAnswered (s t : State) (addr : Word) (n : Nat) (v : Word) : Prop where
  fits : v.toNat < 2 ^ (8 * n)
  storage : ∀ m, Memory.readLE s.mem addr.toNat n = some m → v = BitVec.ofNat 64 m ∧ SameAnswers s t
  script : ∀ a rest, Memory.readLE s.mem addr.toNat n = none → s.answers = a :: rest →
    v = BitVec.ofNat 64 (a.toNat % 2 ^ (8 * n)) ∧ t.answers = rest ∧ t.drawn = s.drawn

/-! ### Fatal outcomes -/

/-- `raise Fatal(code)` as the whole effect of a command (60_exceptions.md R131): the issuing core `c` gains the
ConfigError record, STATUS FATAL, no RDATA, and is HALTED; nothing else in the machine differs. -/
def FatalOutcome (s : State) (c : Core) (code : FatalCode) (r : Result) : Prop :=
  let c' : Core := { c with diag := c.diag ++ [.configError code.number c.cmd c.wdata], status := some .fatal,
                            rdata := none, run := .halted }
  r = .next { s with cores := s.cores.set s.cur c' }

/-- The handle index of a handle command. -/
def handleIndex : Instr → Option Nat
  | .newz h | .newv h | .newf h | .getv h | .setv h | .fetch h | .store h => some h
  | .getbits h _ _ | .setbits h _ _ | .getbit h _ | .setbit h _ => some h
  | .pfetch _ _ | .pstore _ _ | .initexc | .getcid | .halt | .poweroff => none

/-- The commands that need a constructed cache (40_scalar_register.md R80 (1)). -/
def needsCache : Instr → Bool
  | .getv _ | .setv _ | .fetch _ | .store _ | .getbits _ _ _ | .setbits _ _ _ | .getbit _ _ | .setbit _ _ => true
  | .newz _ | .newv _ | .newf _ | .pfetch _ _ | .pstore _ _ | .initexc | .getcid | .halt | .poweroff => false

/-- The width the data operand must fit in, for a register of W bits (40_scalar_register.md R80 (4)). -/
def dataWidth (w : Nat) : Instr → Option Nat
  | .newv _ | .setv _ => some w
  | .setbits _ _ width => some width
  | .setbit _ _ => some 1
  | .newz _ | .newf _ | .getv _ | .fetch _ | .store _ | .getbits _ _ _ | .getbit _ _ => none
  | .pfetch _ _ | .pstore _ _ | .initexc | .getcid | .halt | .poweroff => none

/-- The first bit past the field a command names (40_scalar_register.md R80 (3)). -/
def fieldEnd : Instr → Option Nat
  | .getbits _ shift width | .setbits _ shift width => some (shift + width)
  | .getbit _ bit | .setbit _ bit => some (bit + 1)
  | .newz _ | .newv _ | .newf _ | .getv _ | .setv _ | .fetch _ | .store _ => none
  | .pfetch _ _ | .pstore _ _ | .initexc | .getcid | .halt | .poweroff => none

/-- The first check of a handle command on register `d` that fails (40_scalar_register.md R80): constructed,
read-only, geometry, value. -/
def firstHandleFailure (i : Instr) (h : Nat) (d : Handle) (c : Core) : Option FatalCode :=
  if needsCache i && (c.cache h).isNone then some .unconstructed
  else if i = .store h ∧ d.loc = .sysreg .coreid then some .readOnly
  else if (fieldEnd i).any fun e => decide (d.width < e) then some .fieldGeometry
  else if (dataWidth d.width i).any fun w => decide (2 ^ w ≤ c.wdata.toNat) then some .valueRange
  else none

/-- The first check of a packed-array command that fails (41_packed_array.md R101, R102): the pin, then the value. -/
def firstPackedFailure (pin : Nat) (value : Option Word) (p : PackedArray) : Option FatalCode :=
  if p.maxPins ≤ pin then some .pinRange
  else if value.any fun v => decide (2 ^ p.sz ≤ v.toNat) then some .valueRange
  else none

/-- The fatal cause a legal command raises on core `c`, the first in the check order (30_encoding.md R73,
60_exceptions.md R139 (c)); `none` where every check passes. -/
def firstFailure (i : Instr) (s : State) (c : Core) : Option FatalCode :=
  match handleIndex i with
  | some h =>
    match s.cfg.ht[h]? with
    | none => some .badIndex
    | some d => firstHandleFailure i h d c
  | none =>
    match i with
    | .pfetch a pin => (s.cfg.pt[a]?).elim (some .badIndex) (firstPackedFailure pin none)
    | .pstore a pin => (s.cfg.pt[a]?).elim (some .badIndex) (firstPackedFailure pin (some c.wdata))
    | .newz _ | .newv _ | .newf _ | .getv _ | .setv _ | .fetch _ | .store _ | .getbits _ _ _ => none
    | .setbits _ _ _ | .getbit _ _ | .setbit _ _ | .initexc | .getcid | .halt | .poweroff => none

/-! ### What a command reaches -/

/-- The bus location a command stores to when all its checks pass, with the width of the store in bytes: the
register of a STORE through an MMIO handle, the owning word of a PSTORE (40_scalar_register.md R80, R87;
41_packed_array.md R102). -/
def storeTarget (i : Instr) (s : State) : Option (Word × Nat) :=
  match i with
  | .store h =>
    match s.cfg.ht[h]? with
    | some d =>
      match d.loc with
      | .mmio addr => some (addr, d.width / 8)
      | .sysreg _ => none
    | none => none
  | .pstore a pin =>
    match s.cfg.pt[a]? with
    | some p => some (wordAddr p pin, 4)
    | none => none
  | .newz _ | .newv _ | .newf _ | .getv _ | .setv _ | .fetch _ | .getbits _ _ _ | .setbits _ _ _ => none
  | .getbit _ _ | .setbit _ _ | .pfetch _ _ | .initexc | .getcid | .halt | .poweroff => none

/-- The command writes system registers: INITEXC, and STORE through a SYSREG handle (42_system_ops.md R110,
40_scalar_register.md R87). -/
def writesSys (i : Instr) (s : State) : Bool :=
  match i with
  | .initexc => true
  | .store h =>
    match s.cfg.ht[h]? with
    | some d =>
      match d.loc with
      | .sysreg _ => true
      | .mmio _ => false
    | none => false
  | .newz _ | .newv _ | .newf _ | .getv _ | .setv _ | .fetch _ | .getbits _ _ _ | .setbits _ _ _ => false
  | .getbit _ _ | .setbit _ _ | .pfetch _ _ | .pstore _ _ | .getcid | .halt | .poweroff => false

/-- The implemented bits of a value written to a system register (10_state.md R19 to R23). -/
def implemented (r : SysReg) (v : Word) : Word :=
  match r with
  | .mask => v &&& 0x3C0
  | .spsel => v &&& 1
  | .coreid | .vbar | .elr | .esr | .far | .trapctl => v

/-- The value of a packed-array element where its owning word is plain storage (41_packed_array.md R100, R101). -/
def elementValue (m : Memory) (p : PackedArray) (pin : Nat) : Option Word :=
  (Memory.readLE m (wordAddr p pin).toNat 4).map fun w => BitVec.ofNat 64 (w / 2 ^ bitOffset p pin % 2 ^ p.sz)

/-- Bits `shift + width - 1 : shift` of `new` are the low bits of `value`; every other bit is that of `old`
(00_scope.md R4, 40_scalar_register.md R92). -/
def FieldReplaced (old new value : Word) (shift width : Nat) : Prop :=
  ∀ i, new.getLsbD i = if shift ≤ i ∧ i < shift + width then value.getLsbD (i - shift) else old.getLsbD i

/-! ### Traps and boot -/

/-- The core differs at most in its pending traps. -/
def SameButPending (c c' : Core) : Prop :=
  c' = { c with pendIrq := c'.pendIrq, pendFiq := c'.pendFiq, pendSError := c'.pendSError }

/-- The whole effect of delivering a trap of class `k` with event `e` to core `j`, which is `c`, where the vector is
defined (60_exceptions.md R136, R140, R141, R143, R144). -/
def TrapOutcome (s : State) (j : Nat) (c : Core) (k : TrapClass) (e : TrapRecord) (r : Result) : Prop :=
  let g := c.trapGroup e.origin
  let gc := groupCode s.cfg g
  let kc := classCode s.cfg k
  let reads : List Access := [.sys .read .elr e.elr, .sys .read .esr e.esr, .sys .read .far e.far]
  let c' : Core :=
    { c with run := .halted, elr := e.elr, esr := e.esr, far := e.far,
             pc := c.vbar + BitVec.ofNat 64 (0x200 * gslot g + 0x080 * cslot k), pcWritten := true,
             arg0 := BitVec.ofNat 64 (gc.toNat * 16 + kc.toNat), arg0Written := true,
             accesses := c.accesses ++ reads,
             diag := c.diag ++ [.trapReport gc kc e.elr e.esr e.far] }
  r = .next { s with cur := j, cores := s.cores.set j c' }

/-- The active stack pointer `x[SP]`, where it holds a value (10_state.md R14; 93_implementation_defined.md U19). -/
def Core.activeSP (c : Core) : Option Word :=
  if c.dedicatedStack then (if c.sp1Written then some c.sp1 else none)
  else (if c.sp0Written then some c.sp0 else none)

/-- The registers the boot sequence leaves on a core whose identification register reads `raw` (43_stack_base.md
R121): the selected stack pointer, ARG0 if the id is passed, the entry point. -/
def BootRegisters (cfg : Config) (id : Word) (c c' : Core) : Prop :=
  let top := cfg.ramTop - id * cfg.stackSize
  c'.pc = cfg.entry ∧ c'.pcWritten = true ∧ c'.activeSP = some top ∧
  (c.spsel = 1 → c'.sp1 = top ∧ c'.sp0 = c.sp0 ∧ c'.sp0Written = c.sp0Written) ∧
  (c.spsel = 0 → c'.sp0 = top ∧ c'.sp1 = c.sp1 ∧ c'.sp1Written = c.sp1Written) ∧
  (cfg.passCoreid = true → c'.arg0 = id ∧ c'.arg0Written = true) ∧
  (cfg.passCoreid = false → c'.arg0 = c.arg0 ∧ c'.arg0Written = c.arg0Written)

/-- The step from `s` is the boot transition of core `j`: the machine is not TERMINATED, the core is in RESET, and its
boot is presented, or nothing is and it is the lowest core in RESET (43_stack_base.md R120, log entry 8). -/
structure BootsNext (s : State) (j : Nat) : Prop where
  live : s.terminated = false
  inReset : ∃ c, s.cores[j]? = some c ∧ c.run = .reset
  turn : (∃ rest, s.inputs = .boot j :: rest) ∨
    (s.inputs = [] ∧ ∀ i d, i < j → s.cores[i]? = some d → d.run ≠ .reset)

/-! ### Histories -/

/-- An access is on the bus. -/
def Access.isBus : Access → Bool
  | .bus _ _ _ _ => true
  | .sys _ _ _ => false

/-- BUS[c], the bus part of the access history (10_state.md R29). -/
def Core.busHistory (c : Core) : List Access := c.accesses.filter Access.isBus

/-- SYS[c], the system-register part of the access history (10_state.md R29). -/
def Core.sysHistory (c : Core) : List Access := c.accesses.filter fun a => !a.isBus

/-- The core id of physical core `j`: the masked field of its identification register (60_exceptions.md R149). -/
def State.coreId (s : State) (j : Nat) : Word := coreIdField s.cfg (s.cfg.coreidRaw.getD j 0)

/-! ### Invariants -/

/-- What every core `j` keeps: one cache per handle, a constructed cache within its register's width (10_state.md
R24), only a core whose id is 0 past the gate (43_stack_base.md R122), an established pc while RUNNING, a
diagnostic record only on a halted core, at most one (60_exceptions.md R139, R151), and on a halted core whose id is
not 0 its CoreReport (43_stack_base.md R122). -/
structure CoreInv (s : State) (j : Nat) (c : Core) : Prop where
  caches : c.caches.length = s.cfg.nh
  width : ∀ h d v, s.cfg.ht[h]? = some d → c.cache h = some v → v.toNat < 2 ^ d.width
  primary : c.run = .running ∨ c.run = .faulted → s.coreId j = 0 ∧ c.pcWritten = true
  quiet : c.run ≠ .halted → c.diag = []
  once : c.diag.length ≤ 1
  reported : c.run = .halted → s.coreId j ≠ 0 → c.diag = [.coreReport (s.coreId j)]

/-- The invariant of the machine: a well-formed configuration, NCORES cores that keep `CoreInv`, and storage in
canonical form. -/
structure Inv (s : State) : Prop where
  wf : s.cfg.wf = true
  cores : s.cores.length = s.cfg.ncores
  core : ∀ j c, s.cores[j]? = some c → CoreInv s j c
  mem : Memory.wf s.mem

/-- A core whose id is not 0 is before or past its boot transition and has issued no bus access (20_memory.md R49,
43_stack_base.md R122). -/
def SecondariesQuiet (s : State) : Prop :=
  ∀ j c, s.cores[j]? = some c → s.coreId j ≠ 0 → (c.run = .reset ∨ c.run = .halted) ∧ c.busHistory = []

/-- The input is the external reset. -/
def Input.isReset : Input → Bool
  | .reset _ => true
  | .command _ _ _ | .boot _ | .trap _ _ _ | .deliver _ _ | .device _ _ => false

/-- The core an input addresses; a device change and a reset address none. -/
def Input.core : Input → Option Nat
  | .command c _ _ | .boot c | .trap c _ _ | .deliver c _ => some c
  | .device _ _ | .reset _ => none

/-! ### Safe and finished states -/

/-- The record is a fatal one. -/
def DiagRecord.isFatal : DiagRecord → Bool
  | .coreReport _ => false
  | .configError _ _ _ | .trapReport _ _ _ _ _ => true

/-- No ConfigError, no TrapReport, no core FAULTED (60_exceptions.md R151). -/
def State.safe (s : State) : Bool :=
  s.cores.all fun c => decide (c.run ≠ .faulted) && (c.diag.all fun r => !r.isFatal)

/-- The run is over: TERMINATED, or every core HALTED, and no core FAULTED (70_reset_and_hazards.md R171). -/
def State.finished (s : State) : Bool := s.over

/-- Core `j`, which is `c`, ended as the source intends (70_reset_and_hazards.md R171): a secondary core HALTED after its
CoreReport and nothing else reported, a primary core with a POWEROFF. -/
def State.endedOrderly (s : State) (j : Nat) (c : Core) : Bool :=
  if s.coreId j = 0 then !c.exitReqs.isEmpty
  else decide (c.run = .halted) && decide (c.diag = [.coreReport (s.coreId j)])

/-- The orderly end the source intends (70_reset_and_hazards.md R171): the run is over, safely, there is a primary core
(one whose id is 0), and every core ended as it should. -/
def State.orderlyEnd (s : State) : Bool :=
  s.finished && s.safe && ((List.range s.cores.length).any fun j => decide (s.coreId j = 0))
    && (s.cores.zipIdx.all fun x => s.endedOrderly x.2 x.1)

end Sys2Proof.Machine
end

