-- ==== Sys2Proof/Certificates/Slice0/Obligations.lean ====
section
/-! DEFINITION. The statements for the provers, in the terms of Sys2Proof/Safety.lean. Each is a claim about every
state that meets its hypotheses, whatever the configuration. -/

open Sys2Proof Sys2Proof.Machine

/-! ### Encoding (30_encoding.md) -/

/-- Decoding the word of a well-formed command gives the command back, every field at every value its format
admits (R61 to R66, R71). -/
def Obligations.DecodeOfEncodeIsTheCommand : Prop :=
  ∀ i : Instr, i.wf = true → decode (encode i) = .ok i

/-- A word that decodes is the word of the command it decodes to, and that command is well formed: every legal word
has one reading and no bit of it is dropped (R61 to R66, R71). -/
def Obligations.EncodeOfDecodeIsTheWord : Prop :=
  ∀ (w : CmdWord) (i : Instr), decode w = .ok i → i.wf = true ∧ encode i = w

/-- R66: a word is the command of a row iff `w & mask = match`. -/
def Obligations.OpcodeMapDecidesEveryWord : Prop :=
  ∀ (w : CmdWord) (r : OpcodeRow), r ∈ opcodeMap →
    (r.covers w = true ↔ ∃ i, decode w = .ok i ∧ i.mnemonic = r.mnemonic)

/-- Words of 95_test_vectors.md B1, written out from the spec's table, decode to the commands they stand for. -/
def Obligations.WordsOfTheTestVectorsDecode : Prop :=
  decode 0x03010000 = .ok (.newf 1) ∧ decode 0x09003FFF = .ok (.setbits 0 127 127) ∧
  decode 0x0A040007 = .ok (.getbit 4 7) ∧ decode 0x1104FFFF = .ok (.pstore 4 65535) ∧
  decode 0x20000000 = .ok .initexc ∧ decode 0x23000000 = .ok .poweroff

/-! ### The step and the command port (10_state.md R11, R26; 30_encoding.md R68, R73) -/

/-- A step with a command presented on a port that accepts it is exec of the decoded command, the command's words on
the port and the input used up. -/
def Obligations.StepRunsTheDecodedCommand : Prop :=
  ∀ (s : State) (c : Nat) (cmd : CmdWord) (wdata : Word) (rest : List Input) (i : Instr),
    s.cfg.wf = true → s.inputs = .command c cmd wdata :: rest → s.accepts c = true → decode cmd = .ok i →
    step s = exec i ({ s with inputs := rest }.present c cmd wdata)

/-- R68: a word no row of R66 covers raises `Fatal(4)` and changes no other state; the all-zero and all-ones words
are such; an index out of range raises `Fatal(5)`. -/
def Obligations.IllegalWordsAndIndicesAreFatal : Prop :=
  (∀ (s : State) (c : Nat) (k : Core) (cmd : CmdWord) (wdata : Word) (rest : List Input),
    s.cfg.wf = true → s.inputs = .command c cmd wdata :: rest → s.cores[c]? = some k → k.run = .running →
    s.terminated = false → (∀ r ∈ opcodeMap, r.covers cmd = false) →
    FatalOutcome { s with inputs := rest, cur := c } { k with cmd := cmd, wdata := wdata } .badCommand (step s)) ∧
  (∀ r ∈ opcodeMap, r.covers 0 = false ∧ r.covers (BitVec.allOnes 32) = false) ∧
  (∀ (s : State) (c : Core) (i : Instr) (h : Nat), Ready s c → handleIndex i = some h → s.cfg.nh ≤ h →
    FatalOutcome s c .badIndex (exec i s)) ∧
  (∀ (s : State) (c : Core) (a pin : Nat), Ready s c → s.cfg.na ≤ a →
    FatalOutcome s c .badIndex (exec (.pfetch a pin) s) ∧ FatalOutcome s c .badIndex (exec (.pstore a pin) s))

/-- R26 in the model's own form (log entry 10): a command presented to a port that does not accept one is not taken,
and nothing else happens in the machine. -/
def Obligations.UnacceptedCommandChangesNothing : Prop :=
  ∀ (s : State) (c : Nat) (cmd : CmdWord) (wdata : Word) (rest : List Input),
    s.cfg.wf = true → s.inputs = .command c cmd wdata :: rest → s.accepts c = false →
    step s = .next { s with inputs := rest }

/-! ### Checks (40_scalar_register.md R80, 41_packed_array.md R101, R102, 60_exceptions.md R130, R131) -/

/-- A legal command raises `Fatal(code)` exactly when the first of its checks to fail, in the order index,
constructed, read-only, geometry, value (pin, value for a packed array), is the one with that code; the fatal path
is then its whole effect. -/
def Obligations.FatalIsTheFirstFailingCheck : Prop :=
  ∀ (i : Instr) (s : State) (c : Core) (code : FatalCode), Ready s c →
    (FatalOutcome s c code (exec i s) ↔ firstFailure i s c = some code)

/-- R150: every command other than HALT and POWEROFF completes once its checks pass (and it stores nowhere in the
vector table), with the frame of a completed command. -/
def Obligations.PassedChecksComplete : Prop :=
  ∀ (i : Instr) (s : State) (c : Core), Ready s c → firstFailure i s c = none → i ≠ .halt → i ≠ .poweroff →
    (∀ a n, storeTarget i s = some (a, n) → inVectorTable s.cfg a n = false) →
    ∃ t c', exec i s = .next t ∧ Completed s t c c'

/-- R51: the model refuses a bus write that lands inside `[VT_BASE, VT_BASE + 2048)`. -/
def Obligations.VectorTableWritesAreRefused : Prop :=
  ∀ (i : Instr) (s : State) (c : Core) (a : Word) (n : Nat), Ready s c → firstFailure i s c = none →
    storeTarget i s = some (a, n) → s.cfg.vtBase.toNat ≤ a.toNat → a.toNat < s.cfg.vtBase.toNat + 2048 →
    exec i s = .refused .vectorTableWrite

/-! ### Scalar register commands (40_scalar_register.md) -/

/-- R81: NEWZ makes the cache zero, whatever it held, and reaches no hardware; a handle outside the table raises
`Fatal(5)`. -/
def Obligations.NewzZeroesTheCache : Prop :=
  ∀ (s : State) (c : Core) (h : Nat), Ready s c → c.caches.length = s.cfg.nh →
    (s.cfg.nh ≤ h → FatalOutcome s c .badIndex (exec (.newz h) s)) ∧
    (h < s.cfg.nh → ∃ t c', exec (.newz h) s = .next t ∧ Completed s t c c' ∧ NoAccess s t c c' ∧
      c'.cache h = some 0 ∧ OtherCaches h c c' ∧ c'.rdata = none)

/-- R82: NEWV puts a WDATA that fits in the cache, constructed before or not, and reaches no hardware; one that does
not fit raises `Fatal(1)`. -/
def Obligations.NewvWritesTheCache : Prop :=
  ∀ (s : State) (c : Core) (h : Nat) (d : Handle), Ready s c → s.cfg.ht[h]? = some d →
    c.caches.length = s.cfg.nh →
    (2 ^ d.width ≤ c.wdata.toNat → FatalOutcome s c .valueRange (exec (.newv h) s)) ∧
    (c.wdata.toNat < 2 ^ d.width →
      ∃ t c', exec (.newv h) s = .next t ∧ Completed s t c c' ∧ NoAccess s t c c' ∧
        c'.cache h = some c.wdata ∧ OtherCaches h c c' ∧ c'.rdata = none)

/-- R85: SETV puts a WDATA that fits in a constructed cache and reaches no hardware; it raises `Fatal(5)` on a handle
outside the table, else `Fatal(6)` on an unconstructed one, else `Fatal(1)` on a value that does not fit. -/
def Obligations.SetvWritesTheCache : Prop :=
  ∀ (s : State) (c : Core) (h : Nat), Ready s c → c.caches.length = s.cfg.nh →
    (s.cfg.nh ≤ h → FatalOutcome s c .badIndex (exec (.setv h) s)) ∧
    (h < s.cfg.nh → c.cache h = none → FatalOutcome s c .unconstructed (exec (.setv h) s)) ∧
    (∀ d, s.cfg.ht[h]? = some d → (c.cache h).isSome = true → 2 ^ d.width ≤ c.wdata.toNat →
      FatalOutcome s c .valueRange (exec (.setv h) s)) ∧
    (∀ d, s.cfg.ht[h]? = some d → (c.cache h).isSome = true → c.wdata.toNat < 2 ^ d.width →
      ∃ t c', exec (.setv h) s = .next t ∧ Completed s t c c' ∧ NoAccess s t c c' ∧
        c'.cache h = some c.wdata ∧ OtherCaches h c c' ∧ c'.rdata = none)

/-- R83: NEWF reads the register once, puts the value in the cache and on RDATA, and writes nothing else. An MMIO
register is one bus read of W/8 bytes, a system register one SysRead of its value. -/
def Obligations.NewfReadsOnce : Prop :=
  ∀ (s : State) (c : Core) (h : Nat) (d : Handle), Ready s c → s.cfg.ht[h]? = some d →
    c.caches.length = s.cfg.nh →
    ∃ t c' v access, exec (.newf h) s = .next t ∧ Completed s t c c' ∧ SameSys c c' ∧ SameMemory s t ∧
      c'.accesses = c.accesses ++ [access] ∧ v.toNat < 2 ^ d.width ∧
      c'.cache h = some v ∧ OtherCaches h c c' ∧ c'.rdata = some v ∧
      ((∃ addr, d.loc = .mmio addr ∧ access = .bus .read addr (d.width / 8) v) ∨
       (∃ r, d.loc = .sysreg r ∧ access = .sys .read r v ∧ v = s.sysValue r ∧ SameAnswers s t))

/-- R86: FETCH on a constructed handle does the same as NEWF, whatever the cache held; it raises `Fatal(5)` on a handle
outside the table and `Fatal(6)` on an unconstructed one. -/
def Obligations.FetchReadsOnce : Prop :=
  ∀ (s : State) (c : Core) (h : Nat), Ready s c → c.caches.length = s.cfg.nh →
    (s.cfg.nh ≤ h → FatalOutcome s c .badIndex (exec (.fetch h) s)) ∧
    (h < s.cfg.nh → c.cache h = none → FatalOutcome s c .unconstructed (exec (.fetch h) s)) ∧
    (∀ d, s.cfg.ht[h]? = some d → (c.cache h).isSome = true →
      ∃ t c' v access, exec (.fetch h) s = .next t ∧ Completed s t c c' ∧ SameSys c c' ∧ SameMemory s t ∧
        c'.accesses = c.accesses ++ [access] ∧ v.toNat < 2 ^ d.width ∧
        c'.cache h = some v ∧ OtherCaches h c c' ∧ c'.rdata = some v ∧
        ((∃ addr, d.loc = .mmio addr ∧ access = .bus .read addr (d.width / 8) v) ∨
         (∃ r, d.loc = .sysreg r ∧ access = .sys .read r v ∧ v = s.sysValue r ∧ SameAnswers s t)))

/-- 20_memory.md R41, R44, R45: the bus read of NEWF, FETCH, PFETCH and PSTORE answers with the little-endian bytes of
the storage there and uses up no scripted answer; outside storage it answers with the next scripted answer, cut to the
width of the access. The script is the model's stand-in for the environment (log entry 5). -/
def Obligations.BusReadAnswersFromStorageThenScript : Prop :=
  ∀ (s : State) (c : Core), Ready s c →
    (∀ (h : Nat) (d : Handle) (addr : Word), s.cfg.ht[h]? = some d → d.loc = .mmio addr →
      (∃ t c' v, exec (.newf h) s = .next t ∧ t.cores[t.cur]? = some c' ∧ c'.rdata = some v ∧
        c'.accesses = c.accesses ++ [.bus .read addr (d.width / 8) v] ∧ BusAnswered s t addr (d.width / 8) v) ∧
      ((c.cache h).isSome = true →
        ∃ t c' v, exec (.fetch h) s = .next t ∧ t.cores[t.cur]? = some c' ∧ c'.rdata = some v ∧
          c'.accesses = c.accesses ++ [.bus .read addr (d.width / 8) v] ∧
          BusAnswered s t addr (d.width / 8) v)) ∧
    (∀ (a pin : Nat) (p : PackedArray), s.cfg.pt[a]? = some p → pin < p.maxPins →
      (∃ t c' w, exec (.pfetch a pin) s = .next t ∧ t.cores[t.cur]? = some c' ∧
        c'.rdata = some (BitVec.ofNat 64 (w.toNat / 2 ^ bitOffset p pin % 2 ^ p.sz)) ∧
        c'.accesses = c.accesses ++ [.bus .read (wordAddr p pin) 4 w] ∧ BusAnswered s t (wordAddr p pin) 4 w) ∧
      (c.wdata.toNat < 2 ^ p.sz → inVectorTable s.cfg (wordAddr p pin) 4 = false →
        ∃ t c' w w', exec (.pstore a pin) s = .next t ∧ t.cores[t.cur]? = some c' ∧
          FieldReplaced w w' c.wdata (bitOffset p pin) p.sz ∧
          c'.accesses = c.accesses ++ [.bus .read (wordAddr p pin) 4 w, .bus .write (wordAddr p pin) 4 w'] ∧
          BusAnswered s t (wordAddr p pin) 4 w))

/-- R84: GETV gives the cached value on RDATA, the cache unchanged, and reaches no hardware; it raises `Fatal(5)` on a
handle outside the table and `Fatal(6)` on an unconstructed one. -/
def Obligations.GetvReturnsTheCache : Prop :=
  ∀ (s : State) (c : Core) (h : Nat), Ready s c →
    (s.cfg.nh ≤ h → FatalOutcome s c .badIndex (exec (.getv h) s)) ∧
    (h < s.cfg.nh → c.cache h = none → FatalOutcome s c .unconstructed (exec (.getv h) s)) ∧
    (∀ v, h < s.cfg.nh → c.cache h = some v →
      ∃ t c', exec (.getv h) s = .next t ∧ Completed s t c c' ∧ NoAccess s t c c' ∧
        c'.caches = c.caches ∧ c'.rdata = some v)

/-- R87, 10_state.md R19 to R23: STORE through a SYSREG handle writes the register's implemented bits and no other
register, as one SysWrite of the whole cache; a write of VBAR sets VBAR_WRITTEN. -/
def Obligations.StoreWritesTheSystemRegister : Prop :=
  ∀ (s : State) (c : Core) (h : Nat) (d : Handle) (r : SysReg) (v : Word), Ready s c → s.cfg.ht[h]? = some d →
    d.loc = .sysreg r → r ≠ .coreid → c.cache h = some v →
    ∃ t c', exec (.store h) s = .next t ∧ Completed s t c c' ∧ SameMemory s t ∧ SameAnswers s t ∧
      t.sysValue r = implemented r v ∧ (∀ q, q ≠ r → t.sysValue q = s.sysValue q) ∧
      c'.vbarWritten = (c.vbarWritten || decide (r = .vbar)) ∧
      c'.accesses = c.accesses ++ [.sys .write r v] ∧ c'.caches = c.caches ∧ c'.rdata = none

/-- R87, 20_memory.md R41, R46: STORE through an MMIO handle outside the vector table is one bus write of the whole
cache at the handle's address: byte `k` of the register's storage becomes bits `8k+7 : 8k`, every location outside
its W/8 bytes reads as before, and no system register changes. -/
def Obligations.StoreWritesTheBusRegister : Prop :=
  ∀ (s : State) (c : Core) (h : Nat) (d : Handle) (addr v : Word), Ready s c → s.cfg.ht[h]? = some d →
    d.loc = .mmio addr → c.cache h = some v → inVectorTable s.cfg addr (d.width / 8) = false →
    ∃ t c', exec (.store h) s = .next t ∧ Completed s t c c' ∧ SameSys c c' ∧ SameAnswers s t ∧
      c'.accesses = c.accesses ++ [.bus .write addr (d.width / 8) v] ∧ c'.caches = c.caches ∧ c'.rdata = none ∧
      (∀ k, k < d.width / 8 → Memory.read t.mem (addr.toNat + k)
        = (Memory.read s.mem (addr.toNat + k)).map fun _ => BitVec.ofNat 8 (v.toNat / 2 ^ (8 * k))) ∧
      (∀ x, x < addr.toNat ∨ addr.toNat + d.width / 8 ≤ x → Memory.read t.mem x = Memory.read s.mem x)

/-- R88, R90: GETBITS gives `(cache >> shift) mod 2^width` on RDATA, GETBIT the one bit, the cache unchanged, and
neither reaches hardware. -/
def Obligations.GetbitsAndGetbitReadTheField : Prop :=
  ∀ (s : State) (c : Core) (h : Nat) (d : Handle) (v : Word), Ready s c → s.cfg.ht[h]? = some d →
    c.cache h = some v →
    (∀ shift width, shift + width ≤ d.width →
      ∃ t c', exec (.getbits h shift width) s = .next t ∧ Completed s t c c' ∧ NoAccess s t c c' ∧
        c'.caches = c.caches ∧ c'.rdata = some (BitVec.ofNat 64 (v.toNat / 2 ^ shift % 2 ^ width))) ∧
    (∀ bit, bit < d.width →
      ∃ t c', exec (.getbit h bit) s = .next t ∧ Completed s t c c' ∧ NoAccess s t c c' ∧
        c'.caches = c.caches ∧ c'.rdata = some (if v.getLsbD bit then 1 else 0))

/-- R89, R91: SETBITS replaces the field in the cache by the low `width` bits of WDATA, SETBIT the one bit, no other
bit of the cache differs, no other cache does, and neither reaches hardware. -/
def Obligations.SetbitsAndSetbitReplaceTheField : Prop :=
  ∀ (s : State) (c : Core) (h : Nat) (d : Handle) (v : Word), Ready s c → s.cfg.ht[h]? = some d →
    c.caches.length = s.cfg.nh → c.cache h = some v → v.toNat < 2 ^ d.width →
    (∀ shift width, shift + width ≤ d.width → c.wdata.toNat < 2 ^ width →
      ∃ t c' w, exec (.setbits h shift width) s = .next t ∧ Completed s t c c' ∧ NoAccess s t c c' ∧
        c'.cache h = some w ∧ FieldReplaced v w c.wdata shift width ∧ OtherCaches h c c' ∧ c'.rdata = none) ∧
    (∀ bit, bit < d.width → c.wdata.toNat < 2 →
      ∃ t c' w, exec (.setbit h bit) s = .next t ∧ Completed s t c c' ∧ NoAccess s t c c' ∧
        c'.cache h = some w ∧ FieldReplaced v w c.wdata bit 1 ∧ OtherCaches h c c' ∧ c'.rdata = none)

/-- R90, R91: the single-bit forms are the width-1 forms, in every state, faults and fatal outcomes included. -/
def Obligations.SingleBitFormsAreWidthOneFields : Prop :=
  ∀ (s : State) (h bit : Nat),
    exec (.getbit h bit) s = exec (.getbits h bit 1) s ∧ exec (.setbit h bit) s = exec (.setbits h bit 1) s

/-- R92: SETBITS then GETBITS of the same field returns the value, and all bits outside the field are unchanged; a
value of `2^width` or more is fatal and mutates nothing. -/
def Obligations.BitFieldIsolation : Prop :=
  ∀ (s : State) (c : Core) (h shift width : Nat) (d : Handle) (v : Word), Ready s c → s.cfg.ht[h]? = some d →
    c.caches.length = s.cfg.nh → c.cache h = some v → v.toNat < 2 ^ d.width → shift + width ≤ d.width →
    (c.wdata.toNat < 2 ^ width →
      ∃ t u t' u' w, exec (.setbits h shift width) s = .next t ∧ exec (.getbits h shift width) t = .next u ∧
        t.cores[t.cur]? = some t' ∧ u.cores[u.cur]? = some u' ∧ u'.rdata = some c.wdata ∧
        t'.cache h = some w ∧ u'.cache h = some w ∧
        (∀ i, i < shift ∨ shift + width ≤ i → w.getLsbD i = v.getLsbD i)) ∧
    (2 ^ width ≤ c.wdata.toNat → FatalOutcome s c .valueRange (exec (.setbits h shift width) s))

/-! ### Packed arrays (41_packed_array.md) -/

/-- R100, 20_memory.md R42, R54: a word holds 1 to 32 elements, an element lies inside its word, the word of a legal
pin inside the array, and the word's address is `base + 4 * word_index` modulo 2^64 and 4-byte aligned. -/
def Obligations.PackedElementsLieInTheirWords : Prop :=
  ∀ (cfg : Config) (a pin : Nat) (p : PackedArray), cfg.wf = true → cfg.pt[a]? = some p →
    fieldsPerWord p = 32 / p.sz ∧ 1 ≤ fieldsPerWord p ∧ fieldsPerWord p ≤ 32 ∧
    wordIndex p pin = pin / fieldsPerWord p ∧ bitOffset p pin = pin % fieldsPerWord p * p.sz ∧
    bitOffset p pin + p.sz ≤ fieldsPerWord p * p.sz ∧ fieldsPerWord p * p.sz ≤ 32 ∧
    (pin < p.maxPins → wordIndex p pin < p.nwords) ∧
    (wordAddr p pin).toNat = (p.base.toNat + 4 * wordIndex p pin) % 2 ^ 64 ∧ (wordAddr p pin).toNat % 4 = 0

/-- R101: PFETCH is exactly one 4-byte read of the owning word, with the element of that word on RDATA. Nothing is
written. It raises `Fatal(5)` on an array outside the table and `Fatal(2)` on a pin of `max_pins` or more. Where the
word is plain storage the element is the stored one: that is 20_memory.md R44 and, for its byte order, R41 (D13), in
the model's own form (log entries 5, 12 and 18). -/
def Obligations.PfetchReadsTheElement : Prop :=
  ∀ (s : State) (c : Core) (a pin : Nat), Ready s c →
    (s.cfg.na ≤ a → FatalOutcome s c .badIndex (exec (.pfetch a pin) s)) ∧
    (∀ p, s.cfg.pt[a]? = some p → p.maxPins ≤ pin → FatalOutcome s c .pinRange (exec (.pfetch a pin) s)) ∧
    (∀ p, s.cfg.pt[a]? = some p → pin < p.maxPins →
      ∃ t c' w, exec (.pfetch a pin) s = .next t ∧ Completed s t c c' ∧ SameSys c c' ∧ SameMemory s t ∧
        c'.caches = c.caches ∧ w.toNat < 2 ^ 32 ∧
        c'.accesses = c.accesses ++ [.bus .read (p.base + BitVec.ofNat 64 (4 * (pin / (32 / p.sz)))) 4 w] ∧
        c'.rdata = some (BitVec.ofNat 64 (w.toNat / 2 ^ (pin % (32 / p.sz) * p.sz) % 2 ^ p.sz)) ∧
        (∀ v, elementValue s.mem p pin = some v → c'.rdata = some v))

/-- R102: PSTORE is one 4-byte read and then one 4-byte write of the owning word; the word written is the word
read with the element replaced by WDATA. It raises `Fatal(5)` on an array outside the table, else `Fatal(2)` on a pin
of `max_pins` or more, else `Fatal(1)` on a value that does not fit. That every other bit, the unused high bits too, is
written as read is R103, the spec's own reading (D16). What the storage holds before and after is 20_memory.md R44 and,
for its byte order, R41 (D13), in the model's own form (log entries 5, 12 and 18); it changes only in that word. A word
that reaches into the vector table is the subject of VectorTableWritesAreRefused. -/
def Obligations.PstoreRewritesOneWord : Prop :=
  ∀ (s : State) (c : Core) (a pin : Nat), Ready s c →
    (s.cfg.na ≤ a → FatalOutcome s c .badIndex (exec (.pstore a pin) s)) ∧
    (∀ p, s.cfg.pt[a]? = some p → p.maxPins ≤ pin → FatalOutcome s c .pinRange (exec (.pstore a pin) s)) ∧
    (∀ p, s.cfg.pt[a]? = some p → pin < p.maxPins → 2 ^ p.sz ≤ c.wdata.toNat →
      FatalOutcome s c .valueRange (exec (.pstore a pin) s)) ∧
    (∀ p, s.cfg.pt[a]? = some p → pin < p.maxPins → c.wdata.toNat < 2 ^ p.sz →
      inVectorTable s.cfg (wordAddr p pin) 4 = false →
      ∃ t c' w w', exec (.pstore a pin) s = .next t ∧ Completed s t c c' ∧ SameSys c c' ∧
        c'.caches = c.caches ∧ c'.rdata = none ∧ w.toNat < 2 ^ 32 ∧
        c'.accesses = c.accesses ++ [.bus .read (wordAddr p pin) 4 w, .bus .write (wordAddr p pin) 4 w'] ∧
        FieldReplaced w w' c.wdata (bitOffset p pin) p.sz ∧
        (∀ v, Memory.readLE s.mem (wordAddr p pin).toNat 4 = some v → w = BitVec.ofNat 64 v ∧
          Memory.readLE t.mem (wordAddr p pin).toNat 4 = some w'.toNat) ∧
        (∀ x, x < (wordAddr p pin).toNat ∨ (wordAddr p pin).toNat + 4 ≤ x →
          Memory.read t.mem x = Memory.read s.mem x))

/-- R104: an element lies inside its word, the word of `pin / (32 / sz)`; on plain storage, PFETCH after PSTORE
returns the value stored, and every other element of the array reads as it did before. Plain storage is 20_memory.md
R44 in the model's own form (log entry 12), the byte order of a stored word R41 (D13; log entry 18). -/
def Obligations.PackedStoreThenFetch : Prop :=
  ∀ (s : State) (c : Core) (a pin : Nat) (p : PackedArray), Ready s c → s.cfg.pt[a]? = some p → pin < p.maxPins →
    bitOffset p pin + p.sz ≤ 32 ∧ wordIndex p pin = pin / (32 / p.sz) ∧
    (c.wdata.toNat < 2 ^ p.sz → inVectorTable s.cfg (wordAddr p pin) 4 = false →
      (Memory.readLE s.mem (wordAddr p pin).toNat 4).isSome = true →
      ∃ t, exec (.pstore a pin) s = .next t ∧
        (∃ u u', exec (.pfetch a pin) t = .next u ∧ u.cores[u.cur]? = some u' ∧ u'.rdata = some c.wdata) ∧
        (∀ q v, q < p.maxPins → q ≠ pin → elementValue s.mem p q = some v →
          ∃ u u', exec (.pfetch a q) t = .next u ∧ u.cores[u.cur]? = some u' ∧ u'.rdata = some v))

/-! ### System operations (42_system_ops.md) -/

/-- R110: INITEXC issues its accesses in the order table base, routing controls (where configured), masks, and leaves
VBAR the table's base, the four routing bits set and SPSEL 1 (where configured), the four masks clear, and every
other bit and register as it was. -/
def Obligations.InitexcInstallsAndArmsTheTable : Prop :=
  ∀ (s : State) (c : Core), Ready s c →
    ∃ t c', exec .initexc s = .next t ∧ Completed s t c c' ∧ SameMemory s t ∧ SameAnswers s t ∧
      c'.caches = c.caches ∧ c'.rdata = none ∧ c'.vbar = s.cfg.vtBase ∧ c'.vbarWritten = true ∧ c'.mask = 0 ∧
      c'.elr = c.elr ∧ c'.esr = c.esr ∧ c'.far = c.far ∧
      (if s.cfg.initRouting then
        c'.trapctl = c.trapctl ||| 0x40E ∧ c'.spsel = 1 ∧
        c'.accesses = c.accesses ++ [.sys .write .vbar s.cfg.vtBase, .sys .read .trapctl c.trapctl,
          .sys .write .trapctl (c.trapctl ||| 0x40E), .sys .write .spsel 1, .sys .read .mask c.maskValue,
          .sys .write .mask 0]
      else
        c'.trapctl = c.trapctl ∧ c'.spsel = c.spsel ∧
        c'.accesses = c.accesses ++ [.sys .write .vbar s.cfg.vtBase, .sys .read .mask c.maskValue,
          .sys .write .mask 0])

/-- R111: GETCID reads COREID once and gives its masked field on RDATA; nothing else changes. -/
def Obligations.GetcidReadsTheCoreId : Prop :=
  ∀ (s : State) (c : Core), Ready s c →
    ∃ t c', exec .getcid s = .next t ∧ Completed s t c c' ∧ SameSys c c' ∧ SameMemory s t ∧ SameAnswers s t ∧
      c'.caches = c.caches ∧
      c'.accesses = c.accesses ++ [.sys .read .coreid (s.cfg.coreidRaw.getD s.cur 0)] ∧
      c'.rdata = some (BitVec.ofNat 64
        ((s.cfg.coreidRaw.getD s.cur 0).toNat / 2 ^ s.cfg.cidShift % 2 ^ s.cfg.cidWidth))

/-- R111: a GETCID issued through the command port of a machine that keeps the invariant returns 0. -/
def Obligations.GetcidThroughThePortReturnsZero : Prop :=
  ∀ (s : State) (c : Core), Inv s → Ready s c →
    ∃ t c', exec .getcid s = .next t ∧ t.cores[t.cur]? = some c' ∧ c'.rdata = some 0

/-- R112: HALT halts the issuing core; no STATUS, no RDATA, no record, no access, and nothing else changes. -/
def Obligations.HaltOnlyHalts : Prop :=
  ∀ (s : State) (c : Core), Ready s c →
    exec .halt s = .next { s with cores := s.cores.set s.cur { c with run := .halted } }

/-- R113: POWEROFF pulses EXITREQ once; where the host honours the request the machine is TERMINATED, else the core is
HALTED; it never completes. The host's answer is the head of the script `honours`, the model's own stand-in for the
host, and is used up (log entry 6); without a script this does not say which answer comes. -/
def Obligations.PoweroffTerminatesOrHalts : Prop :=
  ∀ (s : State) (c : Core), Ready s c →
    ∃ t c' honoured, exec .poweroff s = .next t ∧ t.cores[t.cur]? = some c' ∧
      c' = { c with exitReqs := c.exitReqs ++ [honoured], run := if honoured then .running else .halted } ∧
      t.terminated = honoured ∧ (∀ b rest, s.honours = b :: rest → honoured = b ∧ t.honours = rest) ∧
      t.cfg = s.cfg ∧ t.cur = s.cur ∧ t.inputs = s.inputs ∧ SameMemory s t ∧ t.answers = s.answers ∧
      (∀ j, j ≠ s.cur → t.cores[j]? = s.cores[j]?)

/-! ### What the commands can change, whole-machine rules -/

/-- 10_state.md R14 to R16, 60_exceptions.md R145: no command writes SP[0], SP[1], ARG0 or pc, and none changes
another core, the configuration or what is presented. -/
def Obligations.CommandsLeaveTheCoreRegisters : Prop :=
  ∀ (i : Instr) (s t : State), exec i s = .next t →
    ∃ c c', s.cores[s.cur]? = some c ∧ t.cores[t.cur]? = some c' ∧ SameRegisters c c' ∧ t.cfg = s.cfg ∧
      t.cur = s.cur ∧ t.inputs = s.inputs ∧ (∀ j, j ≠ s.cur → t.cores[j]? = s.cores[j]?) ∧
      c'.pendIrq = c.pendIrq ∧ c'.pendFiq = c.pendFiq ∧ c'.pendSError = c.pendSError

/-- 42_system_ops.md R110, 40_scalar_register.md R87: only INITEXC and STORE through a SYSREG handle change a system
register, and INITEXC and the packed commands change no cache. -/
def Obligations.OnlyInitexcAndSysregStoresWriteSystemRegisters : Prop :=
  ∀ (i : Instr) (s t : State) (c c' : Core), exec i s = .next t → s.cores[s.cur]? = some c →
    t.cores[t.cur]? = some c' →
    (writesSys i s = false → SameSys c c') ∧ (handleIndex i = none → c'.caches = c.caches)

/-- 20_memory.md R40, R46: a command that answers a next state changes storage only in the bytes it stores to, and
one that stores nowhere changes none. -/
def Obligations.CommandsWriteOnlyTheirStoreTarget : Prop :=
  ∀ (i : Instr) (s t : State), exec i s = .next t →
    (storeTarget i s = none → SameMemory s t) ∧
    (∀ a n, storeTarget i s = some (a, n) →
      ∀ x, x < a.toNat ∨ a.toNat + n ≤ x → Memory.read t.mem x = Memory.read s.mem x)

/-! ### Boot (43_stack_base.md) -/

/-- R121, R122: the boot step of a core in RESET reads COREID (twice where the id is not passed), sets the selected
stack pointer, ARG0 and pc; a core whose id is 0 is RUNNING, another is HALTED with one CoreReport; system
registers, caches, storage and the other cores are as before. -/
def Obligations.BootTransition : Prop :=
  ∀ (s : State) (j : Nat) (c : Core) (rest : List Input), s.cfg.wf = true → s.inputs = .boot j :: rest →
    s.cores[j]? = some c → c.run = .reset → s.terminated = false →
    ∃ t c', step s = .next t ∧ t.cores[j]? = some c' ∧ BootRegisters s.cfg (s.coreId j) c c' ∧
      (s.coreId j = 0 → c'.run = .running ∧ c'.diag = c.diag) ∧
      (s.coreId j ≠ 0 → c'.run = .halted ∧ c'.diag = c.diag ++ [.coreReport (s.coreId j)]) ∧
      c'.accesses = c.accesses ++
        List.replicate (if s.cfg.passCoreid then 1 else 2) (.sys .read .coreid (s.cfg.coreidRaw.getD j 0)) ∧
      SameSys c c' ∧ c'.caches = c.caches ∧ t.mem = s.mem ∧ t.terminated = false ∧ t.inputs = rest ∧
      (∀ i, i ≠ j → t.cores[i]? = s.cores[i]?)

/-- 43_stack_base.md R120 with the model's own order of the boot transitions (log entry 8): with nothing presented,
the lowest core still in RESET boots, as if its boot step had been presented. -/
def Obligations.BootRunsWithNothingPresented : Prop :=
  ∀ (s : State) (j : Nat) (c : Core), s.cfg.wf = true → s.inputs = [] → s.terminated = false →
    s.cores[j]? = some c → c.run = .reset → (∀ i d, i < j → s.cores[i]? = some d → d.run ≠ .reset) →
    step s = step { s with inputs := [.boot j] }

/-- R123: the stack regions `[top - STACK_SIZE, top)` of two ids are disjoint, and region `i + 1` ends where region
`i` begins, where `STACK_SIZE > 0` and the regions do not wrap below zero. -/
def Obligations.StackRegionsAreDisjoint : Prop :=
  ∀ (cfg : Config) (i j : Word), 0 < cfg.stackSize.toNat → i < j →
    (j.toNat + 1) * cfg.stackSize.toNat ≤ cfg.ramTop.toNat →
    (stackTop cfg j).toNat ≤ (stackTop cfg i).toNat - cfg.stackSize.toNat ∧
    cfg.stackSize.toNat ≤ (stackTop cfg j).toNat ∧ cfg.stackSize.toNat ≤ (stackTop cfg i).toNat ∧
    (j = i + 1 → (stackTop cfg j).toNat = (stackTop cfg i).toNat - cfg.stackSize.toNat)

/-! ### Traps (60_exceptions.md) -/

/-- R136: the group of a trap. -/
def Obligations.GroupSelection : Prop :=
  ∀ c : Core,
    (c.spselValue.getLsbD 0 = true → c.trapGroup .current = .currentSPx) ∧
    (c.spselValue.getLsbD 0 = false → c.trapGroup .current = .currentSP0) ∧
    (c.trapctl.getLsbD 10 = true → c.trapGroup .lower = .lowerAArch64) ∧
    (c.trapctl.getLsbD 10 = false → c.trapGroup .lower = .lowerAArch32)

/-- 30_encoding.md R69, R140: the groups stand in the order current-SP0, current-SPx, lower-AArch64, lower-AArch32 and
the classes in the order synchronous, IRQ, FIQ, SError. With the table 2048-byte aligned, every slot's entry address is
128-byte aligned and inside the table's 2048 bytes, and distinct slots have distinct entry addresses. The order is the
spec's own, from general knowledge (D23; log entry 18). -/
def Obligations.SlotsTileTheTable : Prop :=
  (gslot .currentSP0 = 0 ∧ gslot .currentSPx = 1 ∧ gslot .lowerAArch64 = 2 ∧ gslot .lowerAArch32 = 3) ∧
  (cslot .synchronous = 0 ∧ cslot .irq = 1 ∧ cslot .fiq = 2 ∧ cslot .serror = 3) ∧
  ∀ (vbar : Word) (g g' : Group) (k k' : TrapClass), vbar.toNat % 2048 = 0 →
    (entryAddress vbar g k).toNat = vbar.toNat + 0x200 * gslot g + 0x080 * cslot k ∧
    (entryAddress vbar g k).toNat % 128 = 0 ∧ (entryAddress vbar g k).toNat < vbar.toNat + 2048 ∧
    (entryAddress vbar g k = entryAddress vbar g' k' → g = g' ∧ k = k')

/-- R143, R144, 30_encoding.md R70: the handler recovers the group and class codes from the tag; distinct slots have
distinct tags in every well-formed configuration; and the slot of (current-SPx, synchronous) has tag 0x23. -/
def Obligations.TagsNameTheirSlots : Prop :=
  ∀ (cfg : Config), cfg.wf = true →
    trapTag cfg .currentSPx .synchronous = 0x23 ∧
    (∀ g k, tagGroup (trapTag cfg g k) = groupCode cfg g ∧ tagClass (trapTag cfg g k) = classCode cfg k) ∧
    (∀ g g' k k', trapTag cfg g k = trapTag cfg g' k' → g = g' ∧ k = k')

/-- R137, R140, R141, R143, R144: a synchronous trap presented to a RUNNING core, VBAR written and the table's base,
is delivered at once whatever the masks: entry, stub, report and halt in one step, and nothing else changes. The
slot order is that of log entry 18. -/
def Obligations.SynchronousTrapIsDelivered : Prop :=
  ∀ (s : State) (j : Nat) (c : Core) (e : TrapRecord) (rest : List Input), s.cfg.wf = true →
    s.inputs = .trap j .synchronous e :: rest → s.cores[j]? = some c → c.run = .running → s.terminated = false →
    c.vbarWritten = true → c.vbar = s.cfg.vtBase →
    TrapOutcome { s with inputs := rest } j c .synchronous e (step s)

/-- R142: a trap delivered while VBAR has not been written since reset, or is not the table's base, leaves the core
FAULTED, writes nothing else and emits nothing: the synchronous delivery, and that of a deliverable class (which an
input chooses, log entry 20). -/
def Obligations.UndefinedVectorFaults : Prop :=
  ∀ (s : State) (j : Nat) (c : Core) (k : TrapClass) (e : TrapRecord) (i : Input) (rest : List Input),
    s.cfg.wf = true → s.inputs = i :: rest → s.cores[j]? = some c → c.run = .running → s.terminated = false →
    (c.vbarWritten = false ∨ c.vbar ≠ s.cfg.vtBase) →
    (i = .trap j .synchronous e ∨ (i = .deliver j k ∧ c.deliverable k = true)) →
    step s = .next { s with inputs := rest, cur := j, cores := s.cores.set j { c with run := .faulted } }

/-- R137: a synchronous trap presented to a core that is not RUNNING, or to a TERMINATED machine, is dropped. -/
def Obligations.SynchronousTrapIsDroppedElsewhere : Prop :=
  ∀ (s : State) (j : Nat) (e : TrapRecord) (rest : List Input), s.cfg.wf = true →
    s.inputs = .trap j .synchronous e :: rest → s.accepts j = false → step s = .next { s with inputs := rest }

/-- R138: an asynchronous trap event sets the pending bit of its class and records its event, replacing an earlier one;
nothing else of the machine changes. That it does so whatever the core's run state is DEDUCED (log entry 13). -/
def Obligations.AsynchronousTrapBecomesPending : Prop :=
  ∀ (s : State) (j : Nat) (c : Core) (k : TrapClass) (e : TrapRecord) (rest : List Input), s.cfg.wf = true →
    s.inputs = .trap j k e :: rest → k ≠ .synchronous → s.cores[j]? = some c →
    ∃ c', step s = .next { s with inputs := rest, cur := j, cores := s.cores.set j c' } ∧
      c'.pending k = some e ∧ (∀ q, q ≠ k → c'.pending q = c.pending q) ∧ SameButPending c c'

/-- R138: a class is deliverable exactly when the core is RUNNING, the class is pending, its MASK bit is 0 and its
TRAPCTL route bit is 1. In a machine not TERMINATED an input delivers a deliverable class (vector defined) as the trap
of its recorded event. That the delivery is an input is the model's form (log entry 20), the slot order that of log
entry 18. -/
def Obligations.DeliverableClassIsDelivered : Prop :=
  ∀ (c : Core) (k : TrapClass) (maskBit routeBit : Nat),
    (k, maskBit, routeBit) ∈ [(TrapClass.irq, 7, 1), (TrapClass.fiq, 6, 2), (TrapClass.serror, 8, 3)] →
    (c.deliverable k = true ↔ c.run = .running ∧ (c.pending k).isSome = true ∧
      c.maskValue.getLsbD maskBit = false ∧ c.trapctl.getLsbD routeBit = true) ∧
    (∀ (s : State) (j : Nat) (e : TrapRecord) (rest : List Input), s.cfg.wf = true →
      s.inputs = .deliver j k :: rest → s.cores[j]? = some c → s.terminated = false → c.vbarWritten = true →
      c.vbar = s.cfg.vtBase → c.pending k = some e → c.deliverable k = true →
      TrapOutcome { s with inputs := rest } j c k e (step s))

/-- R138: a class that is not pending, is masked or is not routed, a core that is not RUNNING, or a TERMINATED machine
has no delivery. That an input which asks for one is dropped, and the class stays as it is with all else, is the
model's form (log entry 20). -/
def Obligations.UndeliverableClassStaysPending : Prop :=
  ∀ (s : State) (j : Nat) (c : Core) (k : TrapClass) (maskBit routeBit : Nat) (rest : List Input),
    s.cfg.wf = true → s.inputs = .deliver j k :: rest → s.cores[j]? = some c →
    (k, maskBit, routeBit) ∈ [(TrapClass.irq, 7, 1), (TrapClass.fiq, 6, 2), (TrapClass.serror, 8, 3)] →
    (c.pending k = none ∨ c.maskValue.getLsbD maskBit = true ∨ c.trapctl.getLsbD routeBit = false ∨
      c.run ≠ .running ∨ s.terminated = true) →
    step s = .next { s with inputs := rest }

/-! ### Invariants and whole-machine rules -/

/-- 10_state.md R31: the state after reset meets the invariants. -/
def Obligations.ResetMeetsTheInvariants : Prop :=
  Inv State.reset ∧ SecondariesQuiet State.reset

/-- Every step from a state that meets the invariant ends in one that does. -/
def Obligations.StepKeepsTheInvariant : Prop :=
  ∀ s t : State, Inv s → step s = .next t → Inv t

/-- 20_memory.md R49, 43_stack_base.md R122: a core whose id is not 0 never runs past the gate and never issues a bus
access, whatever the step. -/
def Obligations.StepKeepsSecondariesQuiet : Prop :=
  ∀ s t : State, s.cfg.wf = true → SecondariesQuiet s → step s = .next t → SecondariesQuiet t

/-- 10_state.md R10: a step other than the external reset changes no core but the one its input addresses; a device
change alters no core. -/
def Obligations.CoresDoNotInterfere : Prop :=
  ∀ (s t : State) (i : Input) (rest : List Input) (j : Nat), s.inputs = i :: rest → i.isReset = false →
    i.core ≠ some j → step s = .next t → t.cores[j]? = s.cores[j]?

/-- 42_system_ops.md R112, 60_exceptions.md R150: HALTED is left by the external reset alone; every other step leaves
all of a halted core as it is but its pending traps. -/
def Obligations.HaltedIsAbsorbing : Prop :=
  ∀ (s t : State) (j : Nat) (c : Core), (∀ i rest, s.inputs = i :: rest → i.isReset = false) →
    s.cores[j]? = some c → c.run = .halted → step s = .next t →
    ∃ c', t.cores[j]? = some c' ∧ SameButPending c c'

/-- 10_state.md R13: once TERMINATED, no core takes a step until the external reset: TERMINATED stays set and every
core is as it was but for its pending traps. -/
def Obligations.TerminatedStopsEveryCore : Prop :=
  ∀ (s t : State) (j : Nat) (c : Core), (∀ i rest, s.inputs = i :: rest → i.isReset = false) →
    s.terminated = true → s.cores[j]? = some c → step s = .next t →
    t.terminated = true ∧ ∃ c', t.cores[j]? = some c' ∧ SameButPending c c'

/-- 00_scope.md R2: no step changes the configuration or the number of cores of a machine that has NCORES of them. -/
def Obligations.ConfigurationIsConstant : Prop :=
  ∀ s t : State, s.cores.length = s.cfg.ncores → step s = .next t →
    t.cfg = s.cfg ∧ t.cores.length = s.cfg.ncores

/-- 10_state.md R27, R29, R28: until the external reset a core's diagnostic, access and exit-request histories only
grow at the end, and a pending bit stays set. -/
def Obligations.HistoriesOnlyGrow : Prop :=
  ∀ (s t : State) (j : Nat) (c : Core), (∀ i rest, s.inputs = i :: rest → i.isReset = false) →
    s.cores[j]? = some c → step s = .next t →
    ∃ c', t.cores[j]? = some c' ∧ c.diag <+: c'.diag ∧ c.accesses <+: c'.accesses ∧ c.exitReqs <+: c'.exitReqs ∧
      (∀ k, (c.pending k).isSome = true → (c'.pending k).isSome = true)

/-- 60_exceptions.md R151, 43_stack_base.md R122: a step other than the external reset that changes a core's diagnostic
records (a ConfigError, a TrapReport or a CoreReport) appends exactly one and halts the core in the same transition. -/
def Obligations.FatalRecordsHaltTheCore : Prop :=
  ∀ (s t : State) (j : Nat) (c c' : Core), (∀ i rest, s.inputs = i :: rest → i.isReset = false) →
    s.cores[j]? = some c → t.cores[j]? = some c' → step s = .next t → c'.diag ≠ c.diag →
    c'.run = .halted ∧ ∃ r, c'.diag = c.diag ++ [r]

/-- 10_state.md R14 to R16: in a step that is neither the external reset nor the boot transition of core `j`, the
core's stack pointers stay as they are, and ARG0 and pc change only by a trap delivered to it, which puts its report on
the core in the same transition. -/
def Obligations.StackPointersChangeOnlyAtBoot : Prop :=
  ∀ (s t : State) (j : Nat) (c c' : Core), (∀ i rest, s.inputs = i :: rest → i.isReset = false) →
    s.cores[j]? = some c → t.cores[j]? = some c' → step s = .next t → ¬ BootsNext s j →
    c'.sp0 = c.sp0 ∧ c'.sp0Written = c.sp0Written ∧ c'.sp1 = c.sp1 ∧ c'.sp1Written = c.sp1Written ∧
    (SameRegisters c c' ∨
      (((∃ k e rest, s.inputs = .trap j k e :: rest) ∨ (∃ k rest, s.inputs = .deliver j k :: rest)) ∧
        ∃ g k elr esr far, c'.diag = c.diag ++ [.trapReport g k elr esr far]))

/-! ### Reset and the end of a run (70_reset_and_hazards.md) -/

/-- R160, 10_state.md R31: the external reset, from any state, puts every core in RESET with the values of R31, the
draws it brings in the registers that draw, and clears TERMINATED; the storage behind the bus stays (log entries 7
and 19). -/
def Obligations.ExternalResetResetsEveryCore : Prop :=
  ∀ (s : State) (draws : List Draw) (rest : List Input), s.cfg.wf = true → s.inputs = .reset draws :: rest →
    draws.length = s.cfg.ncores →
    ∃ t, step s = .next t ∧ t.terminated = false ∧ t.cores.length = s.cfg.ncores ∧ t.mem = s.mem ∧ t.cfg = s.cfg ∧
      t.inputs = rest ∧
      (∀ (j : Nat) (d : Draw), draws[j]? = some d → ∃ c : Core, t.cores[j]? = some c ∧ c.run = .reset ∧
        c.sp0Written = false ∧ c.sp1Written = false ∧ c.arg0Written = false ∧ c.pcWritten = false ∧ c.vbar = d.vbar ∧
        c.vbarWritten = false ∧ c.elr = d.elr ∧ c.esr = d.esr ∧ c.far = d.far ∧ c.maskValue = 0x3C0 ∧
        c.trapctl = d.trapctl ∧ c.spsel = d.spsel ∧ c.caches.length = s.cfg.nh ∧ (∀ h, c.cache h = none) ∧
        (∀ k, c.pending k = none) ∧ c.diag = [] ∧ c.accesses = [])

/-- R171, 10_state.md R12, 60_exceptions.md R142: with nothing presented, a run is over exactly where `State.finished`
says so. A machine with a FAULTED core is never finished and never safe, TERMINATED or not: it is a fault once no boot
is to be taken. With no core FAULTED, one that is TERMINATED, or whose cores are all HALTED, is over; one with a core
RUNNING and none in RESET waits for its environment. The three outcomes are the model's form of it (log entry 14). -/
def Obligations.EndOfARun : Prop :=
  ∀ s : State, s.cfg.wf = true → s.inputs = [] →
    (s.finished = true ↔ step s = .refused .runOver) ∧
    ((∃ c ∈ s.cores, c.run = .faulted) →
      s.finished = false ∧ s.safe = false ∧
      ((s.terminated = true ∨ ∀ c ∈ s.cores, c.run ≠ .reset) → step s = .fault .undefinedVector)) ∧
    ((∀ c ∈ s.cores, c.run ≠ .faulted) →
      (s.terminated = true → step s = .refused .runOver) ∧
      ((∀ c ∈ s.cores, c.run = .halted) → step s = .refused .runOver) ∧
      (s.terminated = false → (∀ c ∈ s.cores, c.run ≠ .reset) → (∃ c ∈ s.cores, c.run = .running) →
        step s = .refused .awaitingInput))

/-- R171: where the other cores are secondaries that have ended at the gate, POWEROFF of the primary core is the orderly
end of the run, whether the host honours the request or not. -/
def Obligations.PoweroffEndsOrderly : Prop :=
  ∀ (s : State) (c : Core), Inv s → Ready s c →
    (∀ j d, j ≠ s.cur → s.cores[j]? = some d → s.coreId j ≠ 0 ∧ d.run = .halted) →
    ∃ t, exec .poweroff s = .next t ∧ t.orderlyEnd = true
end

