-- ==== Sys2Proof/Laws/Memory.lean ====
section
/-! SUPPORT. The laws of the storage behind the bus: every operation keeps the canonical form, a read after a write
gives what was written, and a write leaves every other location alone. -/

namespace Sys2Proof.Machine

/-- A write does not change which locations are storage. -/
theorem Memory.write_addresses (m : Memory) (a : Nat) (b : Byte) : (Memory.write m a b).map (·.1) = m.map (·.1) := by
  simp only [Memory.write, List.map_map]
  refine List.map_congr_left fun x _ => ?_
  by_cases h : x.1 = a <;> simp [h]

/-- The canonical form is a property of the addresses alone. -/
theorem Memory.wf_iff_addresses (m : Memory) :
    Memory.wf m ↔ (m.map (·.1)).Pairwise (· < ·) ∧ ∀ a ∈ m.map (·.1), a < 2 ^ 64 := by
  simp only [List.pairwise_map, List.forall_mem_map]

/-- A write keeps the canonical form. -/
theorem Memory.write_wf {m : Memory} (h : Memory.wf m) (a : Nat) (b : Byte) : Memory.wf (Memory.write m a b) := by
  rw [Memory.wf_iff_addresses, Memory.write_addresses]
  exact (Memory.wf_iff_addresses m).mp h

/-- A wide write keeps the canonical form. -/
theorem Memory.writeLE_wf (n : Nat) : ∀ {m : Memory} (_ : Memory.wf m) (a v : Nat),
    Memory.wf (Memory.writeLE m a n v) := by
  induction n with
  | zero => intro m h a v; exact h
  | succ n ih => intro m h a v; exact ih (Memory.write_wf h a _) (a + 1) (v / 256)

theorem Memory.mem_insert {m : Memory} {a : Nat} {b : Byte} {x : Host.Cell} (h : x ∈ Memory.insert m a b) :
    x = (a, b) ∨ x ∈ m := by
  induction m with
  | nil => simpa [Memory.insert] using h
  | cons y m ih =>
    simp only [Memory.insert] at h
    split at h
    · simpa using h
    · split at h
      · rcases List.mem_cons.mp h with h | h
        · exact .inl h
        · exact .inr (List.mem_cons_of_mem _ h)
      · rcases List.mem_cons.mp h with h | h
        · exact .inr (h ▸ List.mem_cons_self)
        · exact (ih h).imp_right (List.mem_cons_of_mem _)

/-- Declaring a location storage keeps the canonical form. -/
theorem Memory.insert_wf {m : Memory} (h : Memory.wf m) {a : Nat} (ha : a < 2 ^ 64) (b : Byte) :
    Memory.wf (Memory.insert m a b) := by
  obtain ⟨hp, hb⟩ := h
  refine ⟨?_, fun x hx => (Memory.mem_insert hx).elim (fun e => e ▸ ha) (hb x)⟩
  clear hb
  induction m with
  | nil => simp [Memory.insert]
  | cons y m ih =>
    obtain ⟨hy, hm⟩ := List.pairwise_cons.mp hp
    simp only [Memory.insert]
    split
    · rename_i hlt
      refine List.pairwise_cons.mpr ⟨fun x hx => ?_, hp⟩
      rcases List.mem_cons.mp hx with rfl | hx
      · exact hlt
      · exact Nat.lt_trans hlt (hy x hx)
    · split
      · rename_i he
        exact List.pairwise_cons.mpr ⟨fun x hx => he ▸ hy x hx, hm⟩
      · rename_i hge hne
        refine List.pairwise_cons.mpr ⟨fun x hx => ?_, ih hm⟩
        rcases Memory.mem_insert hx with rfl | hx
        · simp only; omega
        · exact hy x hx

/-- Taking a location out of the storage keeps the canonical form. -/
theorem Memory.erase_wf {m : Memory} (h : Memory.wf m) (a : Nat) : Memory.wf (Memory.erase m a) :=
  ⟨h.1.filter _, fun x hx => h.2 x (List.mem_filter.mp hx).1⟩

/-- A write is seen at a storage location, and nowhere else. -/
theorem Memory.read_write (m : Memory) (a x : Nat) (b : Byte) :
    Memory.read (Memory.write m a b) x
      = if x = a then (Memory.read m a).map (fun _ => b) else Memory.read m x := by
  induction m with
  | nil => simp [Memory.write, Memory.read]
  | cons y m ih =>
    obtain ⟨p, q⟩ := y
    have step : Memory.write ((p, q) :: m) a b = (if p = a then (a, b) else (p, q)) :: Memory.write m a b := rfl
    rw [step]
    by_cases hp : p = a
    · subst hp
      by_cases hx : x = p
      · subst hx; simp [Memory.read]
      · simp [Memory.read, hx, Ne.symm hx, ih]
    · by_cases hx : x = a
      · subst hx; simp [Memory.read, hp, ih]
      · simp [Memory.read, hp, hx, ih]

/-- A wide write leaves every location outside its bytes alone. -/
theorem Memory.read_writeLE_other (n : Nat) : ∀ (m : Memory) (a v x : Nat), (x < a ∨ a + n ≤ x) →
    Memory.read (Memory.writeLE m a n v) x = Memory.read m x := by
  induction n with
  | zero => intro m a v x _; rfl
  | succ n ih =>
    intro m a v x h
    rw [Memory.writeLE, ih _ _ _ _ (by omega), Memory.read_write, if_neg (by omega)]

/-- Byte `k` of a wide write is bits `8k+7 : 8k` of the value, at a storage location (20_memory.md R41). -/
theorem Memory.read_writeLE (n : Nat) : ∀ (m : Memory) (a v k : Nat), k < n →
    Memory.read (Memory.writeLE m a n v) (a + k)
      = (Memory.read m (a + k)).map (fun _ => BitVec.ofNat 8 (v / 2 ^ (8 * k))) := by
  induction n with
  | zero => intro m a v k h; omega
  | succ n ih =>
    intro m a v k h
    rcases k with _ | k
    · rw [Memory.writeLE, Memory.read_writeLE_other n _ _ _ _ (by omega), Memory.read_write]
      simp
    · have e : a + (k + 1) = a + 1 + k := by omega
      have hv : v / 256 / 2 ^ (8 * k) = v / 2 ^ (8 * (k + 1)) := by
        rw [Nat.div_div_eq_div_mul, show 256 = 2 ^ 8 from rfl, ← Nat.pow_add]; congr 2; omega
      rw [Memory.writeLE, e, ih _ _ _ _ (by omega), Memory.read_write, if_neg (by omega), hv]

/-- A value of `n` storage bytes is below `2^(8n)` (20_memory.md R45). -/
theorem Memory.readLE_lt (n : Nat) : ∀ {m : Memory} {a v : Nat}, Memory.readLE m a n = some v → v < 2 ^ (8 * n) := by
  induction n with
  | zero => intro m a v h; simp [Memory.readLE] at h; omega
  | succ n ih =>
    intro m a v h
    simp only [Memory.readLE] at h
    split at h
    · rename_i b w hb hw
      have := ih hw
      have hb' : b.toNat < 256 := b.isLt
      have e : 2 ^ (8 * (n + 1)) = 256 * 2 ^ (8 * n) := by
        rw [show 8 * (n + 1) = 8 + 8 * n by omega, Nat.pow_add]
      have h' := Option.some.inj h
      omega
    · cases h

/-- Reading back a wide write of storage gives the value written. -/
theorem Memory.readLE_writeLE (n : Nat) : ∀ (m : Memory) (a v : Nat), v < 2 ^ (8 * n) →
    (Memory.readLE m a n).isSome → Memory.readLE (Memory.writeLE m a n v) a n = some v := by
  induction n with
  | zero => intro m a v h _; simp at h; simp [Memory.readLE, h]
  | succ n ih =>
    intro m a v hv hs
    simp only [Memory.readLE] at hs
    split at hs
    · rename_i b w hb hw
      have key : ∀ (k : Nat) (m' : Memory) (x : Nat), a < x → Memory.readLE (Memory.write m' a (BitVec.ofNat 8 v)) x k
          = Memory.readLE m' x k := by
        intro k
        induction k with
        | zero => intros; rfl
        | succ k ihk =>
          intro m' x hx
          simp only [Memory.readLE]
          rw [Memory.read_write, if_neg (by omega), ihk m' (x + 1) (by omega)]
      have hv' : v / 256 < 2 ^ (8 * n) := by
        rw [Nat.div_lt_iff_lt_mul (by omega), show 256 = 2 ^ 8 from rfl, ← Nat.pow_add]
        exact hv
      have hr : Memory.readLE (Memory.writeLE (Memory.write m a (BitVec.ofNat 8 v)) (a + 1) n (v / 256)) (a + 1) n
          = some (v / 256) := ih _ _ _ hv' (by rw [key n m (a + 1) (by omega), hw]; rfl)
      have h0 : Memory.read (Memory.writeLE (Memory.write m a (BitVec.ofNat 8 v)) (a + 1) n (v / 256)) a
          = some (BitVec.ofNat 8 v) := by
        rw [Memory.read_writeLE_other n _ _ _ _ (by omega), Memory.read_write, if_pos rfl, hb]; rfl
      simp only [Memory.readLE, Memory.writeLE, hr, h0, BitVec.toNat_ofNat]
      congr 1
      omega
    · cases hs

/-- The location the environment declares storage holds its byte; the others are as before. -/
theorem Memory.read_insert {m : Memory} (h : Memory.wf m) (a x : Nat) (b : Byte) :
    Memory.read (Memory.insert m a b) x = if x = a then some b else Memory.read m x := by
  obtain ⟨hp, -⟩ := h
  induction m with
  | nil => simp [Memory.insert, Memory.read, eq_comm]
  | cons y m ih =>
    obtain ⟨p, q⟩ := y
    obtain ⟨hy, hm⟩ := List.pairwise_cons.mp hp
    simp only [Memory.insert]
    split
    · simp [Memory.read, eq_comm]
    · split
      · rename_i he; subst he
        by_cases hx : x = p <;> simp [Memory.read, hx, eq_comm]
      · rename_i hne
        by_cases hx : x = a
        · subst hx; simp [Memory.read, hne, ih hm]
        · simp [Memory.read, ih hm, hx]

end Sys2Proof.Machine
end

