-- ==== Sys2Proof/Laws/Operands.lean ====
section
/-! SUPPORT. What each operand form computes: field reads and writes, the core-id field, the geometry of packed
elements, and the entry addresses of the vector table. -/

namespace Sys2Proof.Machine

/-- A field read is a floor division and a remainder (R4, R88). -/
theorem extractField_eq (v shift width : Nat) : extractField v shift width = v / 2 ^ shift % 2 ^ width := by
  rw [extractField, maskOf, Nat.shiftRight_eq_div_pow, Nat.and_two_pow_sub_one_eq_mod]

theorem fieldRead_eq (v : Word) (shift width : Nat) :
    fieldRead v shift width = BitVec.ofNat 64 (v.toNat / 2 ^ shift % 2 ^ width) := by
  rw [fieldRead, extractField_eq]

theorem coreIdField_eq (cfg : Config) (raw : Word) :
    coreIdField cfg raw = BitVec.ofNat 64 (raw.toNat / 2 ^ cfg.cidShift % 2 ^ cfg.cidWidth) := by
  rw [coreIdField, extractField_eq]

theorem fits_iff (v : Word) (width : Nat) : fits v width = true ↔ v.toNat < 2 ^ width := by simp [fits]

/-- A field written within the register leaves a register value (R89, R93). -/
theorem insertField_lt {w old shift width value : Nat} (hg : shift + width ≤ w) (hv : value < 2 ^ width) :
    insertField w old shift width value < 2 ^ w := by
  have hw := Nat.two_pow_pos w
  refine Nat.or_lt_two_pow (Nat.lt_of_le_of_lt Nat.and_le_right ?_) ?_
  · unfold complementOf
    exact Nat.lt_of_le_of_lt (Nat.sub_le _ _) (Nat.sub_lt hw (by decide))
  · rw [Nat.shiftLeft_eq]
    calc value * 2 ^ shift < 2 ^ width * 2 ^ shift := Nat.mul_lt_mul_of_pos_right hv (Nat.two_pow_pos shift)
      _ = 2 ^ (shift + width) := by rw [Nat.add_comm, Nat.pow_add]
      _ ≤ 2 ^ w := Nat.pow_le_pow_right (by decide) hg

/-- The field-write formula of R89, bit by bit: the field holds the value, every other bit is the old one. -/
theorem insertField_testBit {w old shift width value i : Nat} (hold : old < 2 ^ w) (hg : shift + width ≤ w)
    (hv : value < 2 ^ width) :
    (insertField w old shift width value).testBit i
      = if shift ≤ i ∧ i < shift + width then value.testBit (i - shift) else old.testBit i := by
  have hm : (2 ^ width - 1) <<< shift < 2 ^ w := by
    rw [Nat.shiftLeft_eq]
    calc (2 ^ width - 1) * 2 ^ shift < 2 ^ width * 2 ^ shift :=
          Nat.mul_lt_mul_of_pos_right (Nat.sub_lt (Nat.two_pow_pos width) (by decide)) (Nat.two_pow_pos shift)
      _ = 2 ^ (shift + width) := by rw [Nat.add_comm, Nat.pow_add]
      _ ≤ 2 ^ w := Nat.pow_le_pow_right (by decide) hg
  have high : ∀ {v n : Nat}, v < 2 ^ n → ∀ {k}, n ≤ k → v.testBit k = false := fun h _ hk =>
    Nat.testBit_lt_two_pow (Nat.lt_of_lt_of_le h (Nat.pow_le_pow_right (by decide) hk))
  unfold insertField complementOf maskOf
  rw [show 2 ^ w - 1 - (2 ^ width - 1) <<< shift = 2 ^ w - ((2 ^ width - 1) <<< shift + 1) by omega]
  simp only [Nat.testBit_or, Nat.testBit_and, Nat.testBit_two_pow_sub_succ hm, Nat.testBit_shiftLeft,
    Nat.testBit_two_pow_sub_one]
  by_cases h1 : shift ≤ i
  · by_cases h2 : i < shift + width
    · have : i - shift < width := by omega
      simp [h1, h2, this]
    · have h3 : ¬ i - shift < width := by omega
      simp only [ge_iff_le, h1, h2, h3, high hv (Nat.not_lt.mp h3), decide_true, decide_false, Bool.true_and,
        Bool.and_true, Bool.not_false, Bool.or_false, and_false, if_false]
      by_cases hw : i < w
      · simp [hw]
      · simp [high hold (Nat.not_lt.mp hw)]
  · have hw : i < w := by omega
    simp [h1, hw]

theorem packed_facts {p : PackedArray} (h : p.wf = true) :
    1 ≤ p.sz ∧ p.sz ≤ 32 ∧ p.base.toNat % 4 = 0 ∧ 1 ≤ p.nwords ∧ p.maxPins ≤ p.nwords * (32 / p.sz) ∧
      p.maxPins ≤ 65536 := by
  simpa [PackedArray.wf, and_assoc] using h

/-- The address of a packed word (20_memory.md R54). -/
theorem wordAddr_toNat (p : PackedArray) (pin : Nat) :
    (wordAddr p pin).toNat = (p.base.toNat + 4 * wordIndex p pin) % 2 ^ 64 := by
  simp [wordAddr]

theorem slotOffset_lt (g : Group) (k : TrapClass) : slotOffset g k < 2048 := by cases g <;> cases k <;> decide

/-- The entry address of a slot of an aligned table does not wrap (10_state.md R16). -/
theorem entryAddress_toNat {vbar : Word} (h : vbar.toNat % 2048 = 0) (g : Group) (k : TrapClass) :
    (entryAddress vbar g k).toNat = vbar.toNat + slotOffset g k := by
  have h1 := slotOffset_lt g k
  have h2 := vbar.isLt
  simp only [entryAddress, BitVec.toNat_add, BitVec.toNat_ofNat]
  omega

end Sys2Proof.Machine
end

