-- ==== Sys2Proof/Laws/State.lean ====
section
/-! SUPPORT. The small lemmas of the state: one per field per named update, and what updating the issuing core does
to the list of cores. -/

namespace Sys2Proof.Machine

/-! ### Updates of the machine -/

@[simp] theorem State.onCore_cfg (s : State) (f : Core → Core) : (s.onCore f).cfg = s.cfg := rfl
@[simp] theorem State.onCore_terminated (s : State) (f : Core → Core) : (s.onCore f).terminated = s.terminated := rfl
@[simp] theorem State.onCore_cur (s : State) (f : Core → Core) : (s.onCore f).cur = s.cur := rfl
@[simp] theorem State.onCore_inputs (s : State) (f : Core → Core) : (s.onCore f).inputs = s.inputs := rfl
@[simp] theorem State.onCore_mem (s : State) (f : Core → Core) : (s.onCore f).mem = s.mem := rfl
@[simp] theorem State.onCore_answers (s : State) (f : Core → Core) : (s.onCore f).answers = s.answers := rfl
@[simp] theorem State.onCore_honours (s : State) (f : Core → Core) : (s.onCore f).honours = s.honours := rfl
@[simp] theorem State.onCore_drawn (s : State) (f : Core → Core) : (s.onCore f).drawn = s.drawn := rfl
@[simp] theorem State.onCore_cores (s : State) (f : Core → Core) :
    (s.onCore f).cores = s.cores.modify s.cur f := rfl
@[simp] theorem State.atCore_cfg (s : State) (c : Nat) : (s.atCore c).cfg = s.cfg := rfl
@[simp] theorem State.atCore_terminated (s : State) (c : Nat) : (s.atCore c).terminated = s.terminated := rfl
@[simp] theorem State.atCore_cores (s : State) (c : Nat) : (s.atCore c).cores = s.cores := rfl
@[simp] theorem State.atCore_inputs (s : State) (c : Nat) : (s.atCore c).inputs = s.inputs := rfl
@[simp] theorem State.atCore_mem (s : State) (c : Nat) : (s.atCore c).mem = s.mem := rfl
@[simp] theorem State.atCore_answers (s : State) (c : Nat) : (s.atCore c).answers = s.answers := rfl
@[simp] theorem State.atCore_honours (s : State) (c : Nat) : (s.atCore c).honours = s.honours := rfl
@[simp] theorem State.atCore_drawn (s : State) (c : Nat) : (s.atCore c).drawn = s.drawn := rfl
@[simp] theorem State.atCore_cur (s : State) (c : Nat) : (s.atCore c).cur = c := rfl
@[simp] theorem State.present_cfg (s : State) (c : Nat) (w : CmdWord) (d : Word) : (s.present c w d).cfg = s.cfg := rfl
@[simp] theorem State.present_terminated (s : State) (c : Nat) (w : CmdWord) (d : Word) : (s.present c w d).terminated = s.terminated := rfl
@[simp] theorem State.present_inputs (s : State) (c : Nat) (w : CmdWord) (d : Word) : (s.present c w d).inputs = s.inputs := rfl
@[simp] theorem State.present_mem (s : State) (c : Nat) (w : CmdWord) (d : Word) : (s.present c w d).mem = s.mem := rfl
@[simp] theorem State.present_answers (s : State) (c : Nat) (w : CmdWord) (d : Word) : (s.present c w d).answers = s.answers := rfl
@[simp] theorem State.present_honours (s : State) (c : Nat) (w : CmdWord) (d : Word) : (s.present c w d).honours = s.honours := rfl
@[simp] theorem State.present_drawn (s : State) (c : Nat) (w : CmdWord) (d : Word) : (s.present c w d).drawn = s.drawn := rfl
@[simp] theorem State.present_cur (s : State) (c : Nat) (w : CmdWord) (d : Word) : (s.present c w d).cur = c := rfl

/-! ### The issuing core -/

theorem State.core_eq {s : State} {c : Core} (h : s.cores[s.cur]? = some c) : s.core = c := by
  simp [State.core, List.getD, h]

@[simp] theorem State.onCore_get_cur (s : State) (f : Core → Core) :
    (s.onCore f).cores[s.cur]? = (s.cores[s.cur]?).map f := by
  simp

theorem State.onCore_get_other (s : State) (f : Core → Core) {j : Nat} (h : j ≠ s.cur) :
    (s.onCore f).cores[j]? = s.cores[j]? := by
  simp [Ne.symm h]

theorem State.onCore_core {s : State} {c : Core} (f : Core → Core) (h : s.cores[s.cur]? = some c) :
    (s.onCore f).core = f c :=
  State.core_eq (by simp [h])

@[simp] theorem State.onCore_onCore (s : State) (f g : Core → Core) :
    (s.onCore f).onCore g = s.onCore (fun c => g (f c)) := by
  simp [State.onCore, List.modify_modify_eq, Function.comp_def]

theorem State.onCore_eq_set {s : State} {c : Core} (f : Core → Core) (h : s.cores[s.cur]? = some c) :
    s.onCore f = { s with cores := s.cores.set s.cur (f c) } := by
  have e : s.cores.modify s.cur f = s.cores.set s.cur (f c) := by
    refine List.ext_getElem? fun j => ?_
    rw [List.getElem?_modify, List.getElem?_set]
    obtain ⟨hlt, hc⟩ := List.getElem?_eq_some_iff.mp h
    by_cases hj : s.cur = j
    · subst hj; simp [hlt, hc]
    · simp [hj]
  rw [State.onCore, e]

/-- Updating the issuing core changes nothing else of the machine. -/
theorem State.onCore_sameMachine (s : State) (f : Core → Core) : SameMachine s (s.onCore f) where
  cfg := rfl
  terminated := rfl
  cur := rfl
  inputs := rfl
  honours := rfl
  others _ h := State.onCore_get_other s f h

/-! ### Updates of a core -/

@[simp] theorem Core.failed_run (c : Core) (code : FatalCode) : (c.failed code).run = .halted := rfl
@[simp] theorem Core.failed_sp0 (c : Core) (code : FatalCode) : (c.failed code).sp0 = c.sp0 := rfl
@[simp] theorem Core.failed_sp0Written (c : Core) (code : FatalCode) : (c.failed code).sp0Written = c.sp0Written := rfl
@[simp] theorem Core.failed_sp1 (c : Core) (code : FatalCode) : (c.failed code).sp1 = c.sp1 := rfl
@[simp] theorem Core.failed_sp1Written (c : Core) (code : FatalCode) : (c.failed code).sp1Written = c.sp1Written := rfl
@[simp] theorem Core.failed_arg0 (c : Core) (code : FatalCode) : (c.failed code).arg0 = c.arg0 := rfl
@[simp] theorem Core.failed_arg0Written (c : Core) (code : FatalCode) : (c.failed code).arg0Written = c.arg0Written := rfl
@[simp] theorem Core.failed_pc (c : Core) (code : FatalCode) : (c.failed code).pc = c.pc := rfl
@[simp] theorem Core.failed_pcWritten (c : Core) (code : FatalCode) : (c.failed code).pcWritten = c.pcWritten := rfl
@[simp] theorem Core.failed_vbar (c : Core) (code : FatalCode) : (c.failed code).vbar = c.vbar := rfl
@[simp] theorem Core.failed_vbarWritten (c : Core) (code : FatalCode) : (c.failed code).vbarWritten = c.vbarWritten := rfl
@[simp] theorem Core.failed_elr (c : Core) (code : FatalCode) : (c.failed code).elr = c.elr := rfl
@[simp] theorem Core.failed_esr (c : Core) (code : FatalCode) : (c.failed code).esr = c.esr := rfl
@[simp] theorem Core.failed_far (c : Core) (code : FatalCode) : (c.failed code).far = c.far := rfl
@[simp] theorem Core.failed_mask (c : Core) (code : FatalCode) : (c.failed code).mask = c.mask := rfl
@[simp] theorem Core.failed_trapctl (c : Core) (code : FatalCode) : (c.failed code).trapctl = c.trapctl := rfl
@[simp] theorem Core.failed_spsel (c : Core) (code : FatalCode) : (c.failed code).spsel = c.spsel := rfl
@[simp] theorem Core.failed_caches (c : Core) (code : FatalCode) : (c.failed code).caches = c.caches := rfl
@[simp] theorem Core.failed_pendIrq (c : Core) (code : FatalCode) : (c.failed code).pendIrq = c.pendIrq := rfl
@[simp] theorem Core.failed_pendFiq (c : Core) (code : FatalCode) : (c.failed code).pendFiq = c.pendFiq := rfl
@[simp] theorem Core.failed_pendSError (c : Core) (code : FatalCode) : (c.failed code).pendSError = c.pendSError := rfl
@[simp] theorem Core.failed_cmd (c : Core) (code : FatalCode) : (c.failed code).cmd = c.cmd := rfl
@[simp] theorem Core.failed_wdata (c : Core) (code : FatalCode) : (c.failed code).wdata = c.wdata := rfl
@[simp] theorem Core.failed_rdata (c : Core) (code : FatalCode) : (c.failed code).rdata = none := rfl
@[simp] theorem Core.failed_status (c : Core) (code : FatalCode) : (c.failed code).status = some .fatal := rfl
@[simp] theorem Core.failed_diag (c : Core) (code : FatalCode) : (c.failed code).diag = c.diag ++ [.configError code.number c.cmd c.wdata] := rfl
@[simp] theorem Core.failed_accesses (c : Core) (code : FatalCode) : (c.failed code).accesses = c.accesses := rfl
@[simp] theorem Core.failed_exitReqs (c : Core) (code : FatalCode) : (c.failed code).exitReqs = c.exitReqs := rfl
@[simp] theorem Core.stub_run (c : Core) (t : BitVec 8) : (c.stub t).run = c.run := rfl
@[simp] theorem Core.stub_sp0 (c : Core) (t : BitVec 8) : (c.stub t).sp0 = c.sp0 := rfl
@[simp] theorem Core.stub_sp0Written (c : Core) (t : BitVec 8) : (c.stub t).sp0Written = c.sp0Written := rfl
@[simp] theorem Core.stub_sp1 (c : Core) (t : BitVec 8) : (c.stub t).sp1 = c.sp1 := rfl
@[simp] theorem Core.stub_sp1Written (c : Core) (t : BitVec 8) : (c.stub t).sp1Written = c.sp1Written := rfl
@[simp] theorem Core.stub_arg0 (c : Core) (t : BitVec 8) : (c.stub t).arg0 = BitVec.setWidth 64 t := rfl
@[simp] theorem Core.stub_arg0Written (c : Core) (t : BitVec 8) : (c.stub t).arg0Written = true := rfl
@[simp] theorem Core.stub_pc (c : Core) (t : BitVec 8) : (c.stub t).pc = c.pc := rfl
@[simp] theorem Core.stub_pcWritten (c : Core) (t : BitVec 8) : (c.stub t).pcWritten = c.pcWritten := rfl
@[simp] theorem Core.stub_vbar (c : Core) (t : BitVec 8) : (c.stub t).vbar = c.vbar := rfl
@[simp] theorem Core.stub_vbarWritten (c : Core) (t : BitVec 8) : (c.stub t).vbarWritten = c.vbarWritten := rfl
@[simp] theorem Core.stub_elr (c : Core) (t : BitVec 8) : (c.stub t).elr = c.elr := rfl
@[simp] theorem Core.stub_esr (c : Core) (t : BitVec 8) : (c.stub t).esr = c.esr := rfl
@[simp] theorem Core.stub_far (c : Core) (t : BitVec 8) : (c.stub t).far = c.far := rfl
@[simp] theorem Core.stub_mask (c : Core) (t : BitVec 8) : (c.stub t).mask = c.mask := rfl
@[simp] theorem Core.stub_trapctl (c : Core) (t : BitVec 8) : (c.stub t).trapctl = c.trapctl := rfl
@[simp] theorem Core.stub_spsel (c : Core) (t : BitVec 8) : (c.stub t).spsel = c.spsel := rfl
@[simp] theorem Core.stub_caches (c : Core) (t : BitVec 8) : (c.stub t).caches = c.caches := rfl
@[simp] theorem Core.stub_pendIrq (c : Core) (t : BitVec 8) : (c.stub t).pendIrq = c.pendIrq := rfl
@[simp] theorem Core.stub_pendFiq (c : Core) (t : BitVec 8) : (c.stub t).pendFiq = c.pendFiq := rfl
@[simp] theorem Core.stub_pendSError (c : Core) (t : BitVec 8) : (c.stub t).pendSError = c.pendSError := rfl
@[simp] theorem Core.stub_cmd (c : Core) (t : BitVec 8) : (c.stub t).cmd = c.cmd := rfl
@[simp] theorem Core.stub_wdata (c : Core) (t : BitVec 8) : (c.stub t).wdata = c.wdata := rfl
@[simp] theorem Core.stub_rdata (c : Core) (t : BitVec 8) : (c.stub t).rdata = c.rdata := rfl
@[simp] theorem Core.stub_status (c : Core) (t : BitVec 8) : (c.stub t).status = c.status := rfl
@[simp] theorem Core.stub_diag (c : Core) (t : BitVec 8) : (c.stub t).diag = c.diag := rfl
@[simp] theorem Core.stub_accesses (c : Core) (t : BitVec 8) : (c.stub t).accesses = c.accesses := rfl
@[simp] theorem Core.stub_exitReqs (c : Core) (t : BitVec 8) : (c.stub t).exitReqs = c.exitReqs := rfl
@[simp] theorem Core.enterTrap_run (c : Core) (k : TrapClass) (e : TrapRecord) : (c.enterTrap k e).run = c.run := rfl
@[simp] theorem Core.enterTrap_sp0 (c : Core) (k : TrapClass) (e : TrapRecord) : (c.enterTrap k e).sp0 = c.sp0 := rfl
@[simp] theorem Core.enterTrap_sp0Written (c : Core) (k : TrapClass) (e : TrapRecord) : (c.enterTrap k e).sp0Written = c.sp0Written := rfl
@[simp] theorem Core.enterTrap_sp1 (c : Core) (k : TrapClass) (e : TrapRecord) : (c.enterTrap k e).sp1 = c.sp1 := rfl
@[simp] theorem Core.enterTrap_sp1Written (c : Core) (k : TrapClass) (e : TrapRecord) : (c.enterTrap k e).sp1Written = c.sp1Written := rfl
@[simp] theorem Core.enterTrap_arg0 (c : Core) (k : TrapClass) (e : TrapRecord) : (c.enterTrap k e).arg0 = c.arg0 := rfl
@[simp] theorem Core.enterTrap_arg0Written (c : Core) (k : TrapClass) (e : TrapRecord) : (c.enterTrap k e).arg0Written = c.arg0Written := rfl
@[simp] theorem Core.enterTrap_pc (c : Core) (k : TrapClass) (e : TrapRecord) : (c.enterTrap k e).pc = entryAddress c.vbar (c.trapGroup e.origin) k := rfl
@[simp] theorem Core.enterTrap_pcWritten (c : Core) (k : TrapClass) (e : TrapRecord) : (c.enterTrap k e).pcWritten = true := rfl
@[simp] theorem Core.enterTrap_vbar (c : Core) (k : TrapClass) (e : TrapRecord) : (c.enterTrap k e).vbar = c.vbar := rfl
@[simp] theorem Core.enterTrap_vbarWritten (c : Core) (k : TrapClass) (e : TrapRecord) : (c.enterTrap k e).vbarWritten = c.vbarWritten := rfl
@[simp] theorem Core.enterTrap_elr (c : Core) (k : TrapClass) (e : TrapRecord) : (c.enterTrap k e).elr = e.elr := rfl
@[simp] theorem Core.enterTrap_esr (c : Core) (k : TrapClass) (e : TrapRecord) : (c.enterTrap k e).esr = e.esr := rfl
@[simp] theorem Core.enterTrap_far (c : Core) (k : TrapClass) (e : TrapRecord) : (c.enterTrap k e).far = e.far := rfl
@[simp] theorem Core.enterTrap_mask (c : Core) (k : TrapClass) (e : TrapRecord) : (c.enterTrap k e).mask = c.mask := rfl
@[simp] theorem Core.enterTrap_trapctl (c : Core) (k : TrapClass) (e : TrapRecord) : (c.enterTrap k e).trapctl = c.trapctl := rfl
@[simp] theorem Core.enterTrap_spsel (c : Core) (k : TrapClass) (e : TrapRecord) : (c.enterTrap k e).spsel = c.spsel := rfl
@[simp] theorem Core.enterTrap_caches (c : Core) (k : TrapClass) (e : TrapRecord) : (c.enterTrap k e).caches = c.caches := rfl
@[simp] theorem Core.enterTrap_pendIrq (c : Core) (k : TrapClass) (e : TrapRecord) : (c.enterTrap k e).pendIrq = c.pendIrq := rfl
@[simp] theorem Core.enterTrap_pendFiq (c : Core) (k : TrapClass) (e : TrapRecord) : (c.enterTrap k e).pendFiq = c.pendFiq := rfl
@[simp] theorem Core.enterTrap_pendSError (c : Core) (k : TrapClass) (e : TrapRecord) : (c.enterTrap k e).pendSError = c.pendSError := rfl
@[simp] theorem Core.enterTrap_cmd (c : Core) (k : TrapClass) (e : TrapRecord) : (c.enterTrap k e).cmd = c.cmd := rfl
@[simp] theorem Core.enterTrap_wdata (c : Core) (k : TrapClass) (e : TrapRecord) : (c.enterTrap k e).wdata = c.wdata := rfl
@[simp] theorem Core.enterTrap_rdata (c : Core) (k : TrapClass) (e : TrapRecord) : (c.enterTrap k e).rdata = c.rdata := rfl
@[simp] theorem Core.enterTrap_status (c : Core) (k : TrapClass) (e : TrapRecord) : (c.enterTrap k e).status = c.status := rfl
@[simp] theorem Core.enterTrap_diag (c : Core) (k : TrapClass) (e : TrapRecord) : (c.enterTrap k e).diag = c.diag := rfl
@[simp] theorem Core.enterTrap_accesses (c : Core) (k : TrapClass) (e : TrapRecord) : (c.enterTrap k e).accesses = c.accesses := rfl
@[simp] theorem Core.enterTrap_exitReqs (c : Core) (k : TrapClass) (e : TrapRecord) : (c.enterTrap k e).exitReqs = c.exitReqs := rfl
@[simp] theorem Core.setArg0_run (c : Core) (v : Word) : (c.setArg0 v).run = c.run := rfl
@[simp] theorem Core.setArg0_sp0 (c : Core) (v : Word) : (c.setArg0 v).sp0 = c.sp0 := rfl
@[simp] theorem Core.setArg0_sp0Written (c : Core) (v : Word) : (c.setArg0 v).sp0Written = c.sp0Written := rfl
@[simp] theorem Core.setArg0_sp1 (c : Core) (v : Word) : (c.setArg0 v).sp1 = c.sp1 := rfl
@[simp] theorem Core.setArg0_sp1Written (c : Core) (v : Word) : (c.setArg0 v).sp1Written = c.sp1Written := rfl
@[simp] theorem Core.setArg0_arg0 (c : Core) (v : Word) : (c.setArg0 v).arg0 = v := rfl
@[simp] theorem Core.setArg0_arg0Written (c : Core) (v : Word) : (c.setArg0 v).arg0Written = true := rfl
@[simp] theorem Core.setArg0_pc (c : Core) (v : Word) : (c.setArg0 v).pc = c.pc := rfl
@[simp] theorem Core.setArg0_pcWritten (c : Core) (v : Word) : (c.setArg0 v).pcWritten = c.pcWritten := rfl
@[simp] theorem Core.setArg0_vbar (c : Core) (v : Word) : (c.setArg0 v).vbar = c.vbar := rfl
@[simp] theorem Core.setArg0_vbarWritten (c : Core) (v : Word) : (c.setArg0 v).vbarWritten = c.vbarWritten := rfl
@[simp] theorem Core.setArg0_elr (c : Core) (v : Word) : (c.setArg0 v).elr = c.elr := rfl
@[simp] theorem Core.setArg0_esr (c : Core) (v : Word) : (c.setArg0 v).esr = c.esr := rfl
@[simp] theorem Core.setArg0_far (c : Core) (v : Word) : (c.setArg0 v).far = c.far := rfl
@[simp] theorem Core.setArg0_mask (c : Core) (v : Word) : (c.setArg0 v).mask = c.mask := rfl
@[simp] theorem Core.setArg0_trapctl (c : Core) (v : Word) : (c.setArg0 v).trapctl = c.trapctl := rfl
@[simp] theorem Core.setArg0_spsel (c : Core) (v : Word) : (c.setArg0 v).spsel = c.spsel := rfl
@[simp] theorem Core.setArg0_caches (c : Core) (v : Word) : (c.setArg0 v).caches = c.caches := rfl
@[simp] theorem Core.setArg0_pendIrq (c : Core) (v : Word) : (c.setArg0 v).pendIrq = c.pendIrq := rfl
@[simp] theorem Core.setArg0_pendFiq (c : Core) (v : Word) : (c.setArg0 v).pendFiq = c.pendFiq := rfl
@[simp] theorem Core.setArg0_pendSError (c : Core) (v : Word) : (c.setArg0 v).pendSError = c.pendSError := rfl
@[simp] theorem Core.setArg0_cmd (c : Core) (v : Word) : (c.setArg0 v).cmd = c.cmd := rfl
@[simp] theorem Core.setArg0_wdata (c : Core) (v : Word) : (c.setArg0 v).wdata = c.wdata := rfl
@[simp] theorem Core.setArg0_rdata (c : Core) (v : Word) : (c.setArg0 v).rdata = c.rdata := rfl
@[simp] theorem Core.setArg0_status (c : Core) (v : Word) : (c.setArg0 v).status = c.status := rfl
@[simp] theorem Core.setArg0_diag (c : Core) (v : Word) : (c.setArg0 v).diag = c.diag := rfl
@[simp] theorem Core.setArg0_accesses (c : Core) (v : Word) : (c.setArg0 v).accesses = c.accesses := rfl
@[simp] theorem Core.setArg0_exitReqs (c : Core) (v : Word) : (c.setArg0 v).exitReqs = c.exitReqs := rfl
@[simp] theorem Core.setPc_run (c : Core) (v : Word) : (c.setPc v).run = c.run := rfl
@[simp] theorem Core.setPc_sp0 (c : Core) (v : Word) : (c.setPc v).sp0 = c.sp0 := rfl
@[simp] theorem Core.setPc_sp0Written (c : Core) (v : Word) : (c.setPc v).sp0Written = c.sp0Written := rfl
@[simp] theorem Core.setPc_sp1 (c : Core) (v : Word) : (c.setPc v).sp1 = c.sp1 := rfl
@[simp] theorem Core.setPc_sp1Written (c : Core) (v : Word) : (c.setPc v).sp1Written = c.sp1Written := rfl
@[simp] theorem Core.setPc_arg0 (c : Core) (v : Word) : (c.setPc v).arg0 = c.arg0 := rfl
@[simp] theorem Core.setPc_arg0Written (c : Core) (v : Word) : (c.setPc v).arg0Written = c.arg0Written := rfl
@[simp] theorem Core.setPc_pc (c : Core) (v : Word) : (c.setPc v).pc = v := rfl
@[simp] theorem Core.setPc_pcWritten (c : Core) (v : Word) : (c.setPc v).pcWritten = true := rfl
@[simp] theorem Core.setPc_vbar (c : Core) (v : Word) : (c.setPc v).vbar = c.vbar := rfl
@[simp] theorem Core.setPc_vbarWritten (c : Core) (v : Word) : (c.setPc v).vbarWritten = c.vbarWritten := rfl
@[simp] theorem Core.setPc_elr (c : Core) (v : Word) : (c.setPc v).elr = c.elr := rfl
@[simp] theorem Core.setPc_esr (c : Core) (v : Word) : (c.setPc v).esr = c.esr := rfl
@[simp] theorem Core.setPc_far (c : Core) (v : Word) : (c.setPc v).far = c.far := rfl
@[simp] theorem Core.setPc_mask (c : Core) (v : Word) : (c.setPc v).mask = c.mask := rfl
@[simp] theorem Core.setPc_trapctl (c : Core) (v : Word) : (c.setPc v).trapctl = c.trapctl := rfl
@[simp] theorem Core.setPc_spsel (c : Core) (v : Word) : (c.setPc v).spsel = c.spsel := rfl
@[simp] theorem Core.setPc_caches (c : Core) (v : Word) : (c.setPc v).caches = c.caches := rfl
@[simp] theorem Core.setPc_pendIrq (c : Core) (v : Word) : (c.setPc v).pendIrq = c.pendIrq := rfl
@[simp] theorem Core.setPc_pendFiq (c : Core) (v : Word) : (c.setPc v).pendFiq = c.pendFiq := rfl
@[simp] theorem Core.setPc_pendSError (c : Core) (v : Word) : (c.setPc v).pendSError = c.pendSError := rfl
@[simp] theorem Core.setPc_cmd (c : Core) (v : Word) : (c.setPc v).cmd = c.cmd := rfl
@[simp] theorem Core.setPc_wdata (c : Core) (v : Word) : (c.setPc v).wdata = c.wdata := rfl
@[simp] theorem Core.setPc_rdata (c : Core) (v : Word) : (c.setPc v).rdata = c.rdata := rfl
@[simp] theorem Core.setPc_status (c : Core) (v : Word) : (c.setPc v).status = c.status := rfl
@[simp] theorem Core.setPc_diag (c : Core) (v : Word) : (c.setPc v).diag = c.diag := rfl
@[simp] theorem Core.setPc_accesses (c : Core) (v : Word) : (c.setPc v).accesses = c.accesses := rfl
@[simp] theorem Core.setPc_exitReqs (c : Core) (v : Word) : (c.setPc v).exitReqs = c.exitReqs := rfl
@[simp] theorem Core.withSys_run (c : Core) (r : SysReg) (v : Word) : (c.withSys r v).run = c.run := by cases r <;> rfl
@[simp] theorem Core.withSys_sp0 (c : Core) (r : SysReg) (v : Word) : (c.withSys r v).sp0 = c.sp0 := by cases r <;> rfl
@[simp] theorem Core.withSys_sp0Written (c : Core) (r : SysReg) (v : Word) : (c.withSys r v).sp0Written = c.sp0Written := by cases r <;> rfl
@[simp] theorem Core.withSys_sp1 (c : Core) (r : SysReg) (v : Word) : (c.withSys r v).sp1 = c.sp1 := by cases r <;> rfl
@[simp] theorem Core.withSys_sp1Written (c : Core) (r : SysReg) (v : Word) : (c.withSys r v).sp1Written = c.sp1Written := by cases r <;> rfl
@[simp] theorem Core.withSys_arg0 (c : Core) (r : SysReg) (v : Word) : (c.withSys r v).arg0 = c.arg0 := by cases r <;> rfl
@[simp] theorem Core.withSys_arg0Written (c : Core) (r : SysReg) (v : Word) : (c.withSys r v).arg0Written = c.arg0Written := by cases r <;> rfl
@[simp] theorem Core.withSys_pc (c : Core) (r : SysReg) (v : Word) : (c.withSys r v).pc = c.pc := by cases r <;> rfl
@[simp] theorem Core.withSys_pcWritten (c : Core) (r : SysReg) (v : Word) : (c.withSys r v).pcWritten = c.pcWritten := by cases r <;> rfl
@[simp] theorem Core.withSys_caches (c : Core) (r : SysReg) (v : Word) : (c.withSys r v).caches = c.caches := by cases r <;> rfl
@[simp] theorem Core.withSys_pendIrq (c : Core) (r : SysReg) (v : Word) : (c.withSys r v).pendIrq = c.pendIrq := by cases r <;> rfl
@[simp] theorem Core.withSys_pendFiq (c : Core) (r : SysReg) (v : Word) : (c.withSys r v).pendFiq = c.pendFiq := by cases r <;> rfl
@[simp] theorem Core.withSys_pendSError (c : Core) (r : SysReg) (v : Word) : (c.withSys r v).pendSError = c.pendSError := by cases r <;> rfl
@[simp] theorem Core.withSys_cmd (c : Core) (r : SysReg) (v : Word) : (c.withSys r v).cmd = c.cmd := by cases r <;> rfl
@[simp] theorem Core.withSys_wdata (c : Core) (r : SysReg) (v : Word) : (c.withSys r v).wdata = c.wdata := by cases r <;> rfl
@[simp] theorem Core.withSys_rdata (c : Core) (r : SysReg) (v : Word) : (c.withSys r v).rdata = c.rdata := by cases r <;> rfl
@[simp] theorem Core.withSys_status (c : Core) (r : SysReg) (v : Word) : (c.withSys r v).status = c.status := by cases r <;> rfl
@[simp] theorem Core.withSys_diag (c : Core) (r : SysReg) (v : Word) : (c.withSys r v).diag = c.diag := by cases r <;> rfl
@[simp] theorem Core.withSys_accesses (c : Core) (r : SysReg) (v : Word) : (c.withSys r v).accesses = c.accesses := by cases r <;> rfl
@[simp] theorem Core.withSys_exitReqs (c : Core) (r : SysReg) (v : Word) : (c.withSys r v).exitReqs = c.exitReqs := by cases r <;> rfl
@[simp] theorem Core.setSP_run (c : Core) (v : Word) : (c.setSP v).run = c.run := by unfold Core.setSP; split <;> rfl
@[simp] theorem Core.setSP_arg0 (c : Core) (v : Word) : (c.setSP v).arg0 = c.arg0 := by unfold Core.setSP; split <;> rfl
@[simp] theorem Core.setSP_arg0Written (c : Core) (v : Word) : (c.setSP v).arg0Written = c.arg0Written := by unfold Core.setSP; split <;> rfl
@[simp] theorem Core.setSP_pc (c : Core) (v : Word) : (c.setSP v).pc = c.pc := by unfold Core.setSP; split <;> rfl
@[simp] theorem Core.setSP_pcWritten (c : Core) (v : Word) : (c.setSP v).pcWritten = c.pcWritten := by unfold Core.setSP; split <;> rfl
@[simp] theorem Core.setSP_vbar (c : Core) (v : Word) : (c.setSP v).vbar = c.vbar := by unfold Core.setSP; split <;> rfl
@[simp] theorem Core.setSP_vbarWritten (c : Core) (v : Word) : (c.setSP v).vbarWritten = c.vbarWritten := by unfold Core.setSP; split <;> rfl
@[simp] theorem Core.setSP_elr (c : Core) (v : Word) : (c.setSP v).elr = c.elr := by unfold Core.setSP; split <;> rfl
@[simp] theorem Core.setSP_esr (c : Core) (v : Word) : (c.setSP v).esr = c.esr := by unfold Core.setSP; split <;> rfl
@[simp] theorem Core.setSP_far (c : Core) (v : Word) : (c.setSP v).far = c.far := by unfold Core.setSP; split <;> rfl
@[simp] theorem Core.setSP_mask (c : Core) (v : Word) : (c.setSP v).mask = c.mask := by unfold Core.setSP; split <;> rfl
@[simp] theorem Core.setSP_trapctl (c : Core) (v : Word) : (c.setSP v).trapctl = c.trapctl := by unfold Core.setSP; split <;> rfl
@[simp] theorem Core.setSP_spsel (c : Core) (v : Word) : (c.setSP v).spsel = c.spsel := by unfold Core.setSP; split <;> rfl
@[simp] theorem Core.setSP_caches (c : Core) (v : Word) : (c.setSP v).caches = c.caches := by unfold Core.setSP; split <;> rfl
@[simp] theorem Core.setSP_pendIrq (c : Core) (v : Word) : (c.setSP v).pendIrq = c.pendIrq := by unfold Core.setSP; split <;> rfl
@[simp] theorem Core.setSP_pendFiq (c : Core) (v : Word) : (c.setSP v).pendFiq = c.pendFiq := by unfold Core.setSP; split <;> rfl
@[simp] theorem Core.setSP_pendSError (c : Core) (v : Word) : (c.setSP v).pendSError = c.pendSError := by unfold Core.setSP; split <;> rfl
@[simp] theorem Core.setSP_cmd (c : Core) (v : Word) : (c.setSP v).cmd = c.cmd := by unfold Core.setSP; split <;> rfl
@[simp] theorem Core.setSP_wdata (c : Core) (v : Word) : (c.setSP v).wdata = c.wdata := by unfold Core.setSP; split <;> rfl
@[simp] theorem Core.setSP_rdata (c : Core) (v : Word) : (c.setSP v).rdata = c.rdata := by unfold Core.setSP; split <;> rfl
@[simp] theorem Core.setSP_status (c : Core) (v : Word) : (c.setSP v).status = c.status := by unfold Core.setSP; split <;> rfl
@[simp] theorem Core.setSP_diag (c : Core) (v : Word) : (c.setSP v).diag = c.diag := by unfold Core.setSP; split <;> rfl
@[simp] theorem Core.setSP_accesses (c : Core) (v : Word) : (c.setSP v).accesses = c.accesses := by unfold Core.setSP; split <;> rfl
@[simp] theorem Core.setSP_exitReqs (c : Core) (v : Word) : (c.setSP v).exitReqs = c.exitReqs := by unfold Core.setSP; split <;> rfl
@[simp] theorem Core.setPending_run (c : Core) (k : TrapClass) (e : TrapRecord) : (c.setPending k e).run = c.run := by cases k <;> rfl
@[simp] theorem Core.setPending_sp0 (c : Core) (k : TrapClass) (e : TrapRecord) : (c.setPending k e).sp0 = c.sp0 := by cases k <;> rfl
@[simp] theorem Core.setPending_sp0Written (c : Core) (k : TrapClass) (e : TrapRecord) : (c.setPending k e).sp0Written = c.sp0Written := by cases k <;> rfl
@[simp] theorem Core.setPending_sp1 (c : Core) (k : TrapClass) (e : TrapRecord) : (c.setPending k e).sp1 = c.sp1 := by cases k <;> rfl
@[simp] theorem Core.setPending_sp1Written (c : Core) (k : TrapClass) (e : TrapRecord) : (c.setPending k e).sp1Written = c.sp1Written := by cases k <;> rfl
@[simp] theorem Core.setPending_arg0 (c : Core) (k : TrapClass) (e : TrapRecord) : (c.setPending k e).arg0 = c.arg0 := by cases k <;> rfl
@[simp] theorem Core.setPending_arg0Written (c : Core) (k : TrapClass) (e : TrapRecord) : (c.setPending k e).arg0Written = c.arg0Written := by cases k <;> rfl
@[simp] theorem Core.setPending_pc (c : Core) (k : TrapClass) (e : TrapRecord) : (c.setPending k e).pc = c.pc := by cases k <;> rfl
@[simp] theorem Core.setPending_pcWritten (c : Core) (k : TrapClass) (e : TrapRecord) : (c.setPending k e).pcWritten = c.pcWritten := by cases k <;> rfl
@[simp] theorem Core.setPending_vbar (c : Core) (k : TrapClass) (e : TrapRecord) : (c.setPending k e).vbar = c.vbar := by cases k <;> rfl
@[simp] theorem Core.setPending_vbarWritten (c : Core) (k : TrapClass) (e : TrapRecord) : (c.setPending k e).vbarWritten = c.vbarWritten := by cases k <;> rfl
@[simp] theorem Core.setPending_elr (c : Core) (k : TrapClass) (e : TrapRecord) : (c.setPending k e).elr = c.elr := by cases k <;> rfl
@[simp] theorem Core.setPending_esr (c : Core) (k : TrapClass) (e : TrapRecord) : (c.setPending k e).esr = c.esr := by cases k <;> rfl
@[simp] theorem Core.setPending_far (c : Core) (k : TrapClass) (e : TrapRecord) : (c.setPending k e).far = c.far := by cases k <;> rfl
@[simp] theorem Core.setPending_mask (c : Core) (k : TrapClass) (e : TrapRecord) : (c.setPending k e).mask = c.mask := by cases k <;> rfl
@[simp] theorem Core.setPending_trapctl (c : Core) (k : TrapClass) (e : TrapRecord) : (c.setPending k e).trapctl = c.trapctl := by cases k <;> rfl
@[simp] theorem Core.setPending_spsel (c : Core) (k : TrapClass) (e : TrapRecord) : (c.setPending k e).spsel = c.spsel := by cases k <;> rfl
@[simp] theorem Core.setPending_caches (c : Core) (k : TrapClass) (e : TrapRecord) : (c.setPending k e).caches = c.caches := by cases k <;> rfl
@[simp] theorem Core.setPending_cmd (c : Core) (k : TrapClass) (e : TrapRecord) : (c.setPending k e).cmd = c.cmd := by cases k <;> rfl
@[simp] theorem Core.setPending_wdata (c : Core) (k : TrapClass) (e : TrapRecord) : (c.setPending k e).wdata = c.wdata := by cases k <;> rfl
@[simp] theorem Core.setPending_rdata (c : Core) (k : TrapClass) (e : TrapRecord) : (c.setPending k e).rdata = c.rdata := by cases k <;> rfl
@[simp] theorem Core.setPending_status (c : Core) (k : TrapClass) (e : TrapRecord) : (c.setPending k e).status = c.status := by cases k <;> rfl
@[simp] theorem Core.setPending_diag (c : Core) (k : TrapClass) (e : TrapRecord) : (c.setPending k e).diag = c.diag := by cases k <;> rfl
@[simp] theorem Core.setPending_accesses (c : Core) (k : TrapClass) (e : TrapRecord) : (c.setPending k e).accesses = c.accesses := by cases k <;> rfl
@[simp] theorem Core.setPending_exitReqs (c : Core) (k : TrapClass) (e : TrapRecord) : (c.setPending k e).exitReqs = c.exitReqs := by cases k <;> rfl

end Sys2Proof.Machine
end

