-- ==== Sys2Proof/Laws/Ops.lean ====
section
/-! SUPPORT. One lemma per shared operation that says once what it can do. -/

namespace Sys2Proof.Machine

/-! ### Acceptance, checks, completion -/

theorem accepts_iff (s : State) (c : Nat) :
    s.accepts c = true ↔ s.terminated = false ∧ ∃ k, s.cores[c]? = some k ∧ k.run = .running := by
  unfold State.accepts
  cases h : s.cores[c]? <;> simp

/-- A ready core's command runs its body. -/
theorem issue_of_ready {s : State} {c : Core} (h : Ready s c) (body : Result) : issue s body = body := by
  have ha : s.accepts s.cur = true := (accepts_iff s s.cur).mpr ⟨h.live, c, h.core, h.running⟩
  simp [issue, h.wf, ha]

/-- A command answers a next state only on a ready core. -/
theorem issue_next {s t : State} {body : Result} (h : issue s body = .next t) :
    body = .next t ∧ ∃ c, Ready s c := by
  unfold issue at h
  split at h
  · rename_i hw
    split at h
    · rename_i ha
      obtain ⟨hl, c, hc, hr⟩ := (accepts_iff s s.cur).mp ha
      exact ⟨h, c, hw, hc, hr, hl⟩
    · cases h
  · cases h

theorem complete_eq (r : Option Word) (s : State) :
    complete r s = .next (s.onCore fun c => { c with rdata := r, status := some .ok }) := rfl

/-- `raise Fatal(code)` has the fatal outcome and nothing else. -/
theorem raiseFatal_outcome {s : State} {c : Core} (code : FatalCode) (h : s.cores[s.cur]? = some c) :
    FatalOutcome s c code (raiseFatal code s) := by
  show raiseFatal code s = _
  rw [raiseFatal, State.onCore_eq_set _ h]
  rfl

theorem withHandle_some {h : Nat} {s : State} {d : Handle} (hd : s.cfg.ht[h]? = some d) (body : Handle → Result) :
    withHandle h s body = body d := by simp [withHandle, hd]

theorem withHandle_none {h : Nat} {s : State} (hd : s.cfg.ht[h]? = none) (body : Handle → Result) :
    withHandle h s body = raiseFatal .badIndex s := by simp [withHandle, hd]

theorem withArray_some {a : Nat} {s : State} {p : PackedArray} (hp : s.cfg.pt[a]? = some p)
    (body : PackedArray → Result) : withArray a s body = body p := by simp [withArray, hp]

theorem withArray_none {a : Nat} {s : State} (hp : s.cfg.pt[a]? = none) (body : PackedArray → Result) :
    withArray a s body = raiseFatal .badIndex s := by simp [withArray, hp]

theorem withCache_some {h : Nat} {s : State} {c : Core} {v : Word} (hc : s.cores[s.cur]? = some c)
    (hv : c.cache h = some v) (body : Word → Result) : withCache h s body = body v := by
  simp [withCache, State.core_eq hc, hv]

theorem withCache_none {h : Nat} {s : State} {c : Core} (hc : s.cores[s.cur]? = some c)
    (hv : c.cache h = none) (body : Word → Result) : withCache h s body = raiseFatal .unconstructed s := by
  simp [withCache, State.core_eq hc, hv]

theorem check_holds {p : Bool} (h : p = true) (code : FatalCode) (s : State) (body : Result) :
    check p code s body = body := by simp [check, h]

theorem check_fails {p : Bool} (h : p = false) (code : FatalCode) (s : State) (body : Result) :
    check p code s body = raiseFatal code s := by simp [check, h]

/-! ### The caches -/

theorem cache_set (c : Core) {h : Nat} (hh : h < c.caches.length) (v : Word) (j : Nat) :
    Core.cache { c with caches := c.caches.set h (some v) } j = if j = h then some v else c.cache j := by
  simp only [Core.cache, List.getElem?_set]
  by_cases hj : h = j
  · subst hj; simp [hh]
  · simp [hj, Ne.symm hj]

theorem cache_set_other (c : Core) (h : Nat) (v : Word) {j : Nat} (hj : j ≠ h) :
    Core.cache { c with caches := c.caches.set h (some v) } j = c.cache j := by
  simp [Core.cache, Ne.symm hj]

/-! ### The bus -/

theorem lowBytes_lt (n : Nat) (hn : n ≤ 8) (v : Word) : (lowBytes n v).toNat < 2 ^ (8 * n) := by
  have h1 : v.toNat % 2 ^ (8 * n) < 2 ^ (8 * n) := Nat.mod_lt _ (Nat.two_pow_pos _)
  have h2 : 2 ^ (8 * n) ≤ 2 ^ 64 := Nat.pow_le_pow_right (by decide) (by omega)
  rw [lowBytes, BitVec.toNat_ofNat, Nat.mod_eq_of_lt (by omega)]
  exact h1

/-- The environment's answer has the width asked for and uses up at most one scripted answer or one free value. -/
theorem busAnswer_spec (s : State) (addr : Word) {n : Nat} (hn : n ≤ 8) :
    ∃ v a d, s.busAnswer addr n = (v, { s with answers := a, drawn := d }) ∧ v.toNat < 2 ^ (8 * n) := by
  unfold State.busAnswer
  split
  · rename_i v hv
    have h1 := Memory.readLE_lt n hv
    have h2 : 2 ^ (8 * n) ≤ 2 ^ 64 := Nat.pow_le_pow_right (by decide) (by omega)
    exact ⟨_, _, _, rfl, by rw [BitVec.toNat_ofNat, Nat.mod_eq_of_lt (by omega)]; exact h1⟩
  · split <;> exact ⟨_, _, _, rfl, lowBytes_lt n hn _⟩

/-- A bus read appends its one access and changes nothing else but the environment's answers (R45). -/
theorem memRead_spec (s : State) (addr : Word) {n : Nat} (hn : n ≤ 8) :
    ∃ v a d, memRead addr n s
        = (v, { s with answers := a, drawn := d }.onCore fun c =>
            { c with accesses := c.accesses ++ [Access.bus .read addr n v] }) ∧ v.toNat < 2 ^ (8 * n) := by
  obtain ⟨v, a, d, h, hv⟩ := busAnswer_spec s addr hn
  exact ⟨v, a, d, by simp [memRead, h], hv⟩

/-- A bus write of storage and history, or the refusal in the vector table (R46, R51). -/
theorem memWrite_spec (s : State) (addr : Word) (n : Nat) (v : Word) :
    (inVectorTable s.cfg addr n = true ∧ memWrite addr n v s = .error .vectorTableWrite) ∨
    (inVectorTable s.cfg addr n = false ∧ memWrite addr n v s
      = .ok ({ s with mem := Memory.writeLE s.mem addr.toNat n v.toNat }.onCore fun c =>
          { c with accesses := c.accesses ++ [Access.bus .write addr n v] })) := by
  unfold memWrite
  cases h : inVectorTable s.cfg addr n <;> simp

/-- A handle's width in bytes is at most 8 where the handle is well formed. -/
theorem handle_bytes_le {d : Handle} (h : d.wf = true) : d.width ≤ 64 := by
  unfold Handle.wf at h
  split at h <;> simp at h <;> omega

theorem handle_wf {cfg : Config} (h : cfg.wf = true) {i : Nat} {d : Handle} (hd : cfg.ht[i]? = some d) :
    d.wf = true := by
  simp only [Config.wf, Bool.and_eq_true, List.all_eq_true] at h
  exact h.1.1.1.1.1.1.2 d (List.mem_of_getElem? hd)

theorem packed_wf {cfg : Config} (h : cfg.wf = true) {i : Nat} {p : PackedArray} (hp : cfg.pt[i]? = some p) :
    p.wf = true := by
  simp only [Config.wf, Bool.and_eq_true, List.all_eq_true] at h
  exact h.1.1.1.1.1.2 p (List.mem_of_getElem? hp)

/-- A hardware read is exactly one access of the handle's register, and gives a W-bit value (R80). -/
theorem hwRead_spec (s : State) {d : Handle} (hd : d.wf = true) :
    ∃ v a n access, hwRead d s
        = (v, { s with answers := a, drawn := n }.onCore fun c => { c with accesses := c.accesses ++ [access] }) ∧
      v.toNat < 2 ^ d.width ∧
      ((∃ addr, d.loc = .mmio addr ∧ access = .bus .read addr (d.width / 8) v) ∨
       (∃ r, d.loc = .sysreg r ∧ access = .sys .read r v ∧ v = s.sysValue r ∧ a = s.answers ∧ n = s.drawn)) := by
  have hw := handle_bytes_le hd
  unfold hwRead
  unfold Handle.wf at hd
  split
  · rename_i addr hl
    obtain ⟨v, a, n, h, hv⟩ := memRead_spec s addr (n := d.width / 8) (by omega)
    refine ⟨v, a, n, _, h, ?_, .inl ⟨addr, hl, rfl⟩⟩
    rw [hl] at hd
    have : 8 * (d.width / 8) = d.width := by
      simp at hd; omega
    rwa [this] at hv
  · rename_i r hl
    refine ⟨_, s.answers, s.drawn, _, rfl, ?_, .inr ⟨r, hl, rfl, rfl, rfl, rfl⟩⟩
    rw [hl] at hd
    simp at hd
    rw [hd]
    exact (s.sysValue r).isLt

/-! ### INITEXC -/

/-- A field write of value zero over a whole four-bit MASK leaves zero. -/
theorem unmasked_value (m : BitVec 4) :
    BitVec.ofNat 64 (insertField 64 (BitVec.setWidth 64 m <<< 6).toNat 6 4 0) = 0 := by
  have : ∀ m : BitVec 4, BitVec.ofNat 64 (insertField 64 (BitVec.setWidth 64 m <<< 6).toNat 6 4 0) = 0 := by decide
  exact this m

/-- Setting the four routing bits keeps every other bit (R110). -/
theorem routed_value (t : Word) :
    BitVec.ofNat 64 ((t.toNat &&& complementOf 64 routingBits) ||| routingBits) = t ||| 0x40E := by
  apply BitVec.eq_of_toNat_eq
  have h1 : (t.toNat &&& complementOf 64 routingBits) ||| routingBits = t.toNat ||| routingBits := by
    apply Nat.eq_of_testBit_eq
    intro i
    simp only [Nat.testBit_or, Nat.testBit_and, complementOf]
    by_cases hi : i < 64
    · rw [show 2 ^ 64 - 1 - routingBits = 2 ^ 64 - (routingBits + 1) by decide,
        Nat.testBit_two_pow_sub_succ (by decide)]
      cases t.toNat.testBit i <;> cases routingBits.testBit i <;> simp [hi]
    · rw [Nat.testBit_lt_two_pow (x := t.toNat) (Nat.lt_of_lt_of_le t.isLt (Nat.pow_le_pow_right (by decide) (by omega)))]
      simp
  rw [h1, BitVec.toNat_ofNat, BitVec.toNat_or, Nat.mod_eq_of_lt]
  · rfl
  · exact Nat.or_lt_two_pow t.isLt (by decide)

/-- Step 3 of INITEXC, all at once (R110). -/
theorem unmaskAll_spec {s : State} {c : Core} (hc : s.cores[s.cur]? = some c) :
    unmaskAll s = s.onCore fun k => { k with
      mask := 0, accesses := k.accesses ++ [.sys .read .mask c.maskValue, .sys .write .mask 0] } := by
  simp only [unmaskAll, sysRead, sysWrite, State.sysValue, State.core_eq hc, Core.maskValue, unmasked_value,
    State.onCore_onCore]
  simp [Core.withSys]

/-- Step 2 of INITEXC, all at once (R110). -/
theorem initRouting_spec {s : State} {c : Core} (hc : s.cores[s.cur]? = some c) :
    initRouting s = s.onCore fun k => { k with
      trapctl := c.trapctl ||| 0x40E, spsel := 1,
      accesses := k.accesses ++ [.sys .read .trapctl c.trapctl, .sys .write .trapctl (c.trapctl ||| 0x40E),
        .sys .write .spsel 1] } := by
  simp only [initRouting, sysRead, sysWrite, State.sysValue, State.core_eq hc, routed_value, State.onCore_onCore]
  simp [Core.withSys]
/-! ### Traps -/

/-- The handler recovers the group and class codes from the tag (R143, R144). -/
theorem tagGroup_trapTag (cfg : Config) (g : Group) (k : TrapClass) :
    tagGroup (trapTag cfg g k) = groupCode cfg g := by
  have : ∀ a b : BitVec 4, tagGroup ((BitVec.setWidth 8 a <<< 4) ||| BitVec.setWidth 8 b) = a := by decide
  exact this _ _

theorem tagClass_trapTag (cfg : Config) (g : Group) (k : TrapClass) :
    tagClass (trapTag cfg g k) = classCode cfg k := by
  have : ∀ a b : BitVec 4, tagClass ((BitVec.setWidth 8 a <<< 4) ||| BitVec.setWidth 8 b) = b := by decide
  exact this _ _

/-- A trap where the vector is undefined: FAULTED, nothing else (R142). -/
theorem takeTrap_undefined {s : State} {c : Core} (k : TrapClass) (e : TrapRecord) (hc : s.cores[s.cur]? = some c)
    (hv : c.vectorDefined s.cfg = false) : takeTrap k e s = s.setRun .faulted := by
  simp [takeTrap, State.core_eq hc, hv]

/-- A trap where the vector is defined: entry, stub, handler, report, halt (R140 to R144). -/
theorem takeTrap_defined {s : State} {c : Core} (k : TrapClass) (e : TrapRecord) (hc : s.cores[s.cur]? = some c)
    (hv : c.vectorDefined s.cfg = true) :
    takeTrap k e s =
      let g := c.trapGroup e.origin
      let c' : Core := { (c.enterTrap k e).stub (trapTag s.cfg g k) with
        accesses := c.accesses ++ [.sys .read .elr e.elr, .sys .read .esr e.esr, .sys .read .far e.far],
        diag := c.diag ++ [.trapReport (groupCode s.cfg g) (classCode s.cfg k) e.elr e.esr e.far],
        run := .halted }
      { s with cores := s.cores.set s.cur c' } := by
  have h0 : ∀ f : Core → Core, (s.onCore f).core = f c := fun f => State.onCore_core f hc
  have ht : ∀ b : BitVec 8, BitVec.setWidth 8 (BitVec.setWidth 64 b) = b := by decide
  simp only [takeTrap, State.core_eq hc, hv, if_true, trapHandler, sysRead, State.sysValue, State.onCore_onCore, h0,
    Core.stub_arg0, ht, tagGroup_trapTag, tagClass_trapTag]
  rw [State.onCore_eq_set _ hc]
  simp [Core.stub, Core.enterTrap]

/-! ### Boot -/

/-- The boot transition of core `s.cur`, all at once (R121, R122). -/
theorem bootCore_spec (s : State) :
    bootCore s = s.onCore fun k =>
      let id := s.coreId s.cur
      let read : Access := .sys .read .coreid (s.cfg.coreidRaw.getD s.cur 0)
      let k1 := k.setSP (stackTop s.cfg id)
      let k2 := if s.cfg.passCoreid then k1.setArg0 id else k1
      { k2.setPc s.cfg.entry with
        accesses := k.accesses ++ (if s.cfg.passCoreid then [read] else [read, read]),
        diag := k.diag ++ (if id = 0 then [] else [.coreReport id]),
        run := if id = 0 then .running else .halted } := by
  by_cases hp : s.cfg.passCoreid <;> by_cases hi : s.coreId s.cur = 0 <;>
    simp [bootCore, bootSequence, bootGate, sysRead, State.sysValue, hp, State.coreId] <;>
    simp [State.coreId] at hi <;> simp [hi] <;> congr 1 <;> funext k <;>
    simp [Core.setSP, Core.dedicatedStack] <;> split <;> simp

end Sys2Proof.Machine
end

