-- ==== Sys2Proof/Laws/PerInstr.lean ====
section
/-! SUPPORT. A family of statements about every command as syntax: the opcode of its encoding is the opcode the
opcode map gives it (30_encoding.md R60, R66), one lemma per constructor. -/

namespace Sys2Proof.Laws.EncodedOpcode

/-- CMD[31:24] of a well-formed command's word is the command's opcode (R60, R66). -/
def Statement (i : Instr) : Prop := i.wf = true → bitField (encode i).toNat 31 24 = i.opcode

/-- The opcode field of a word whose operand bits stay below bit 24. -/
theorem opcode_field {op low : Nat} (hop : op < 256) (hlow : low < 2 ^ 24) :
    bitField (BitVec.ofNat 32 (op * 2 ^ 24 + low)).toNat 31 24 = op := by
  simp only [bitField, Nat.shiftRight_eq_div_pow, BitVec.toNat_ofNat]
  omega

theorem opcode_lt (i : Instr) : i.opcode < 256 := by cases i <;> simp [Instr.opcode]

/-- The operand bits of a well-formed command stay below its opcode (R61 to R65). -/
theorem operandBits_lt {i : Instr} (h : i.wf = true) : i.operandBits < 2 ^ 24 := by
  cases i <;>
    simp only [Instr.wf, indexFits, sevenBitFits, pinFits, Bool.and_eq_true, decide_eq_true_eq] at h <;>
    simp only [Instr.operandBits] <;> omega

theorem newz (h : Nat) : Statement (.newz h) := fun h => opcode_field (opcode_lt _) (operandBits_lt h)
theorem newv (h : Nat) : Statement (.newv h) := fun h => opcode_field (opcode_lt _) (operandBits_lt h)
theorem newf (h : Nat) : Statement (.newf h) := fun h => opcode_field (opcode_lt _) (operandBits_lt h)
theorem getv (h : Nat) : Statement (.getv h) := fun h => opcode_field (opcode_lt _) (operandBits_lt h)
theorem setv (h : Nat) : Statement (.setv h) := fun h => opcode_field (opcode_lt _) (operandBits_lt h)
theorem fetch (h : Nat) : Statement (.fetch h) := fun h => opcode_field (opcode_lt _) (operandBits_lt h)
theorem store (h : Nat) : Statement (.store h) := fun h => opcode_field (opcode_lt _) (operandBits_lt h)
theorem getbits (h shift width : Nat) : Statement (.getbits h shift width) := fun h => opcode_field (opcode_lt _) (operandBits_lt h)
theorem setbits (h shift width : Nat) : Statement (.setbits h shift width) := fun h => opcode_field (opcode_lt _) (operandBits_lt h)
theorem getbit (h bit : Nat) : Statement (.getbit h bit) := fun h => opcode_field (opcode_lt _) (operandBits_lt h)
theorem setbit (h bit : Nat) : Statement (.setbit h bit) := fun h => opcode_field (opcode_lt _) (operandBits_lt h)
theorem pfetch (a pin : Nat) : Statement (.pfetch a pin) := fun h => opcode_field (opcode_lt _) (operandBits_lt h)
theorem pstore (a pin : Nat) : Statement (.pstore a pin) := fun h => opcode_field (opcode_lt _) (operandBits_lt h)
theorem initexc : Statement .initexc := fun h => opcode_field (opcode_lt _) (operandBits_lt h)
theorem getcid : Statement .getcid := fun h => opcode_field (opcode_lt _) (operandBits_lt h)
theorem halt : Statement .halt := fun h => opcode_field (opcode_lt _) (operandBits_lt h)
theorem poweroff : Statement .poweroff := fun h => opcode_field (opcode_lt _) (operandBits_lt h)

end Sys2Proof.Laws.EncodedOpcode
end

