-- ==== Sys2Proof/Laws/Step.lean ====
section
/-! SUPPORT. What a step can do, said once: a step answers a next state by performing an input or by the boot of a
core; and each transition as one replacement of one core. -/

namespace Sys2Proof.Machine

/-- A list differs from another in one place. -/
theorem cores_eq_set {l l' : List Core} {j : Nat} {c' : Core} (hl : l'.length = l.length) (hj : l'[j]? = some c')
    (ho : ∀ i, i ≠ j → l'[i]? = l[i]?) : l' = l.set j c' := by
  apply List.ext_getElem?
  intro i
  rw [List.getElem?_set]
  by_cases h : j = i
  · subst h
    rw [if_pos rfl, if_pos (hl ▸ (List.getElem?_eq_some_iff.mp hj).1), hj]
  · simp [h, ho i (Ne.symm h)]

/-! ### The command port -/

theorem present_core {s : State} {j : Nat} {c : Core} (cmd : CmdWord) (w : Word) (hc : s.cores[j]? = some c) :
    (s.present j cmd w).cores[(s.present j cmd w).cur]?
      = some { c with cmd := cmd, wdata := w, rdata := none, status := none } := by
  show ((s.atCore j).onCore _).cores[j]? = _
  simp [State.onCore, State.atCore, hc]

/-- A command presented to an accepting core finds its core ready (R26). -/
theorem present_ready {s : State} {j : Nat} {c : Core} (cmd : CmdWord) (w : Word) (hwf : s.cfg.wf = true)
    (hc : s.cores[j]? = some c) (hr : c.run = .running) (ht : s.terminated = false) :
    Ready (s.present j cmd w) { c with cmd := cmd, wdata := w, rdata := none, status := none } :=
  ⟨hwf, present_core cmd w hc, hr, ht⟩

theorem present_other {s : State} {i j : Nat} (cmd : CmdWord) (w : Word) (h : i ≠ j) :
    (s.present j cmd w).cores[i]? = s.cores[i]? := by
  simp [State.present, State.onCore, State.atCore, Ne.symm h]

/-! ### POWEROFF -/

/-- The host's answer uses up its script or one free value, and touches nothing else (R113). -/
theorem hostAnswer_spec (s : State) :
    ∃ b h d, hostAnswer s = (b, { s with honours := h, drawn := d }) ∧
      ∀ b' rest, s.honours = b' :: rest → b = b' ∧ h = rest ∧ d = s.drawn := by
  unfold hostAnswer
  split
  · rename_i b rest h
    exact ⟨b, rest, s.drawn, rfl, fun b' r e => by rw [h] at e; cases e; exact ⟨rfl, rfl, rfl⟩⟩
  · rename_i h
    exact ⟨_, s.honours, _, rfl, fun b' r e => by rw [h] at e; cases e⟩

/-! ### Boot, traps -/

/-- The core after its boot transition (R121, R122). -/
theorem bootCore_set {s : State} {j : Nat} {c : Core} (hc : s.cores[j]? = some c) :
    ∃ c', bootCore (s.atCore j) = { s with cur := j, cores := s.cores.set j c' } := by
  rw [bootCore_spec, State.onCore_eq_set (s := s.atCore j) _ (c := c) hc]
  exact ⟨_, rfl⟩

/-- A trap on core `j` replaces that core: halted with its report, or faulted (R140 to R144). -/
theorem takeTrap_set {s : State} {j : Nat} {c : Core} (k : TrapClass) (e : TrapRecord)
    (hc : s.cores[j]? = some c) :
    ∃ c', takeTrap k e (s.atCore j) = { s with cur := j, cores := s.cores.set j c' } ∧
      (c.vectorDefined s.cfg = true → c'.run = .halted) ∧
      (c.vectorDefined s.cfg = false → c' = { c with run := .faulted }) := by
  have hc' : (s.atCore j).cores[(s.atCore j).cur]? = some c := hc
  cases hv : c.vectorDefined s.cfg
  · refine ⟨_, ?_, by simp, fun _ => rfl⟩
    rw [takeTrap_undefined k e hc' hv]
    show State.onCore _ _ = _
    rw [State.onCore_eq_set _ hc']
    rfl
  · exact ⟨_, takeTrap_defined k e hc' hv, fun _ => rfl, by simp⟩

theorem setPending_set {s : State} {j : Nat} {c : Core} (k : TrapClass) (e : TrapRecord)
    (hc : s.cores[j]? = some c) :
    (s.atCore j).onCore (fun core => core.setPending k e)
      = { s with cur := j, cores := s.cores.set j (c.setPending k e) } := by
  rw [State.onCore_eq_set (s := s.atCore j) _ (c := c) hc]
  rfl

/-! ### The step -/

/-- The machine boots by itself the lowest core in RESET, unless TERMINATED. -/
theorem nextBoot_some {s : State} {j : Nat} (h : s.nextBoot = some j) :
    s.terminated = false ∧ ∃ c, s.cores[j]? = some c ∧ c.run = .reset ∧
      ∀ i d, i < j → s.cores[i]? = some d → d.run ≠ .reset := by
  unfold State.nextBoot at h
  split at h
  · cases h
  · rename_i ht
    obtain ⟨hlt, hr, hmin⟩ := List.findIdx?_eq_some_iff_getElem.mp h
    refine ⟨by simpa using ht, _, List.getElem?_eq_getElem hlt, by simpa using hr, fun i d hi hd => ?_⟩
    obtain ⟨hl, rfl⟩ := List.getElem?_eq_some_iff.mp hd
    simpa using hmin i hi

/-- A standstill is a fault or a refusal. -/
theorem standstill_not_next (s t : State) : standstill s ≠ .next t := by
  unfold standstill
  split
  · simp
  · split <;> simp

/-- A run is over at a standstill exactly where the machine says so: never with a core FAULTED (R142, R171). -/
theorem standstill_over (s : State) : standstill s = .refused .runOver ↔ s.over = true := by
  unfold standstill State.over
  cases s.faulted <;> cases s.terminated <;> simp

theorem faulted_iff (s : State) : s.faulted = true ↔ ∃ c ∈ s.cores, c.run = .faulted := by
  simp [State.faulted]

/-- A step that answers a next state performed an input, or booted the lowest core in RESET. -/
theorem step_next {s t : State} (h : step s = .next t) :
    s.cfg.wf = true ∧
    ((∃ i rest, s.inputs = i :: rest ∧ perform i { s with inputs := rest } = .next t) ∨
     (s.inputs = [] ∧ s.terminated = false ∧ ∃ j c, s.cores[j]? = some c ∧ c.run = .reset ∧
        t = bootCore (s.atCore j))) := by
  unfold step transition at h
  split at h
  · rename_i hwf
    refine ⟨hwf, ?_⟩
    split at h
    · rename_i i rest hi
      exact .inl ⟨i, rest, hi, h⟩
    · rename_i hi
      unfold autonomous at h
      split at h
      · rename_i j hj
        obtain ⟨ht, c, hc, hr, -⟩ := nextBoot_some hj
        cases h
        exact .inr ⟨hi, ht, j, c, hc, hr, rfl⟩
      · exact absurd h (standstill_not_next s t)
  · cases h

/-- A command accepted on its port runs the port (R26, R73). -/
theorem step_command {s : State} {c : Nat} {cmd : CmdWord} {w : Word} {rest : List Input} (hwf : s.cfg.wf = true)
    (hi : s.inputs = .command c cmd w :: rest) (ha : s.accepts c = true) :
    step s = runPort (({ s with inputs := rest } : State).present c cmd w) := by
  have ha' : ({ s with inputs := rest } : State).accepts c = true := ha
  simp only [step, transition, hwf, if_true, hi, perform, onCommand, ha']

end Sys2Proof.Machine
end

