-- ==== Sys2Proof/Tests/Slice0.lean ====
section
/-! SUPPORT. Tests against 95_test_vectors.md (the section of each vector stands in its comment), and, for every
obligation with hypotheses, a state and operands that meet them all together. -/

namespace Sys2Proof.Tests

open Sys2Proof.Machine

/-! ### Small machines -/

/-- Core 0 of CFG-T after its boot transition, SPSEL drawn 1 (B11). -/
def booted : Core :=
  { Core.reset 10 Draw.chosen with
    run := .running, sp1 := 0x40000000, sp1Written := true, arg0Written := true, pc := 0x81000, pcWritten := true }

/-- A secondary core past the gate (B11). -/
def secondary (id : Word) : Core :=
  { Core.reset 10 Draw.chosen with run := .halted, pcWritten := true, diag := [.coreReport id] }

/-- CFG-T with core 0 as given and the secondary cores halted. -/
def machine (c : Core) : State := { State.reset with cores := [c, secondary 1, secondary 2, secondary 3] }

/-- `booted` with one constructed handle. -/
def caching (h : Nat) (v : Word) : Core := { booted with caches := booted.caches.set h (some v) }

/-- The step of a command on core 0, in a machine whose bus reads answer as scripted. -/
def run (c : Core) (answers : List Word) (cmd : CmdWord) (wdata : Word) : Result :=
  step { machine c with answers := answers, inputs := [.command 0 cmd wdata] }

/-- What is seen of a core after a step. -/
def seenOf {α : Type} (j : Nat) (f : Core → α) : Result → Option α
  | .next t => (t.cores[j]?).map f
  | .fault _ => none
  | .refused _ => none

/-- What is seen of core 0 after a step. -/
def seen {α : Type} (f : Core → α) (r : Result) : Option α := seenOf 0 f r

/-- The codes of the fatal records of core 0 after a step. -/
def codes : Result → Option (List (BitVec 8)) :=
  seen fun c => c.diag.filterMap fun r =>
    match r with
    | .configError n _ _ => some n
    | .coreReport _ => none
    | .trapReport _ _ _ _ _ => none

/-! ### WellFormed refuses an ill-formed term for each of its checks (R61 to R65) -/

theorem test_wf_handle : Instr.wf (.newz 256) = false := by decide
theorem test_wf_field_handle : Instr.wf (.setbits 256 0 0) = false := by decide
theorem test_wf_shift : Instr.wf (.getbits 0 128 0) = false := by decide
theorem test_wf_width : Instr.wf (.getbits 0 0 128) = false := by decide
theorem test_wf_bit_handle : Instr.wf (.setbit 256 0) = false := by decide
theorem test_wf_bit : Instr.wf (.getbit 0 128) = false := by decide
theorem test_wf_array : Instr.wf (.pfetch 256 0) = false := by decide
theorem test_wf_pin : Instr.wf (.pstore 0 65536) = false := by decide

/-! ### A malformed configuration is refused (00_scope.md R3) -/

theorem test_cfg_t_wf : Config.cfgT.wf = true := by decide
theorem test_cfg_width : Config.wf { Config.cfgT with ht := [⟨.mmio 0, 24⟩] } = false := by decide
theorem test_cfg_misaligned : Config.wf { Config.cfgT with ht := [⟨.mmio 0x3F201002, 32⟩] } = false := by decide
theorem test_cfg_sysreg_width : Config.wf { Config.cfgT with ht := [⟨.sysreg .mask, 32⟩] } = false := by decide
theorem test_cfg_pins : Config.wf { Config.cfgT with pt := [⟨0, 3, 5, 54⟩] } = false := by decide
theorem test_cfg_sz : Config.wf { Config.cfgT with pt := [⟨0, 33, 1, 0⟩] } = false := by decide
theorem test_cfg_table : Config.wf { Config.cfgT with vtBase := 0x80400 } = false := by decide
theorem test_cfg_codes :
    Config.wf { Config.cfgT with groupCode := { GroupCodes.default with currentSPx := 4 } } = false := by decide
theorem test_cfg_id_field : Config.wf { Config.cfgT with cidShift := 63, cidWidth := 2 } = false := by decide
theorem test_malformed_refused :
    step { State.reset with cfg := { Config.cfgT with vtBase := 0x80400 } } = .refused .malformedConfig := rfl

/-! ### Decoding: every constructor on a word written out from the spec (B1) -/

theorem test_decode_newz : decode 0x01000000 = .ok (.newz 0) := by decide
theorem test_decode_newv : decode 0x02030000 = .ok (.newv 3) := by decide
theorem test_decode_newf : decode 0x03010000 = .ok (.newf 1) := by decide
theorem test_decode_getv : decode 0x04FF0000 = .ok (.getv 255) := by decide
theorem test_decode_setv : decode 0x05020000 = .ok (.setv 2) := by decide
theorem test_decode_fetch : decode 0x06040000 = .ok (.fetch 4) := by decide
theorem test_decode_store : decode 0x07010000 = .ok (.store 1) := by decide
theorem test_decode_getbits : decode 0x08010184 = .ok (.getbits 1 4 3) := by decide
theorem test_decode_setbits : decode 0x09082000 = .ok (.setbits 8 0 64) := by decide
theorem test_decode_setbits_127 : decode 0x09003FFF = .ok (.setbits 0 127 127) := by decide
theorem test_decode_getbit : decode 0x0A040007 = .ok (.getbit 4 7) := by decide
theorem test_decode_setbit : decode 0x0B05000A = .ok (.setbit 5 10) := by decide
theorem test_decode_pfetch : decode 0x1000000B = .ok (.pfetch 0 11) := by decide
theorem test_decode_pstore : decode 0x1104FFFF = .ok (.pstore 4 65535) := by decide
theorem test_decode_initexc : decode 0x20000000 = .ok .initexc := by decide
theorem test_decode_getcid : decode 0x21000000 = .ok .getcid := by decide
theorem test_decode_halt : decode 0x22000000 = .ok .halt := by decide
theorem test_decode_poweroff : decode 0x23000000 = .ok .poweroff := by decide

/-- The illegal words of B1: unassigned opcodes. -/
theorem test_decode_unassigned :
    ([0x00000000, 0xFFFFFFFF, 0x0C000000, 0x0F000000, 0x12000000, 0x1F000000, 0x24000000].all fun w =>
      (decode w).toOption.isNone) = true := by decide

/-- The illegal words of B1: must-be-zero bits set. -/
theorem test_decode_reserved :
    ([0x01000001, 0x07018000, 0x0901421E, 0x08018184, 0x0A000080, 0x22000001, 0x20010000].all fun w =>
      (decode w).toOption.isNone) = true := by decide

theorem test_table_word : decodeTableWord 32 0x08010184 = some (.getbits 1 4 3) := by decide
theorem test_rmw_words : rmw 1 4 3 5 = [(0x06010000, 0), (0x09010184, 5), (0x07010000, 0)] := by decide

/-! ### Scalar register commands (B2 to B5) -/

/-- B2: the old value is discarded. -/
theorem test_newz : seen (fun c => (c.cache 0, c.rdata, c.status)) (run (caching 0 0x1234) [] 0x01000000 7)
    = some (some 0, none, some .ok) := by decide

theorem test_newv : seen (fun c => (c.cache 3, c.status)) (run booted [] 0x02030000 0xFF)
    = some (some 0xFF, some .ok) := by decide
theorem test_newv_too_wide : seen (fun c => (c.cache 3, c.run, c.status)) (run booted [] 0x02030000 0x100)
    = some (none, .halted, some .fatal) := by decide

theorem test_newf : seen (fun c => (c.rdata, c.cache 2, c.accesses)) (run booted [0xBEEF] 0x03020000 0)
    = some (some 0xBEEF, some 0xBEEF, [.bus .read 0x3F201024 2 0xBEEF]) := by decide
theorem test_newf_sysreg : seen (fun c => (c.rdata, c.accesses)) (run booted [5] 0x03060000 0)
    = some (some 0x80000000, [.sys .read .coreid 0x80000000]) := by decide

theorem test_getv : seen (fun c => (c.rdata, c.accesses)) (run (caching 1 0x90) [] 0x04010000 0)
    = some (some 0x90, []) := by decide
theorem test_getv_unconstructed : codes (run booted [] 0x04000000 0) = some [6] := by decide

theorem test_setv : seen (fun c => (c.cache 2, c.accesses)) (run (caching 2 0) [] 0x05020000 0xBEEF)
    = some (some 0xBEEF, []) := by decide
theorem test_setv_too_wide : codes (run (caching 2 0xBEEF) [] 0x05020000 0x10000) = some [1] := by decide

/-- B2: the uncommitted 0x51 is lost. -/
theorem test_fetch : seen (fun c => (c.rdata, c.cache 1)) (run (caching 1 0x51) [1] 0x06010000 0)
    = some (some 1, some 1) := by decide
/-- B2: MASK after reset. -/
theorem test_fetch_mask : seen (fun c => (c.rdata, c.accesses)) (run (caching 4 0) [] 0x06040000 0)
    = some (some 0x3C0, [.sys .read .mask 0x3C0]) := by decide

theorem test_store : seen (fun c => (c.cache 1, c.accesses)) (run (caching 1 0xFFFFFFDF) [] 0x07010000 0)
    = some (some 0xFFFFFFDF, [.bus .write 0x3F200094 4 0xFFFFFFDF]) := by decide
/-- B2: only bits 9:6 of MASK are stored, and the cache keeps what was written. -/
theorem test_store_mask :
    seen (fun c => (c.maskValue, c.cache 4)) (run (caching 4 0xFFFFFFFFFFFFFFFF) [] 0x07040000 0)
    = some (0x3C0, some 0xFFFFFFFFFFFFFFFF) := by decide

theorem test_getbits : seen (fun c => c.rdata) (run (caching 1 0xFFFFFFDF) [] 0x08010184 0) = some (some 5) := by decide
/-- B4: width 0 at shift = W. -/
theorem test_getbits_width_zero :
    seen (fun c => c.rdata) (run (caching 8 0x0123456789ABCDEF) [] 0x08080040 0) = some (some 0) := by decide

theorem test_setbits : seen (fun c => c.cache 1) (run (caching 1 0xFFFFFFFF) [] 0x09010184 5)
    = some (some 0xFFFFFFDF) := by decide
/-- B3: `mask(64) = 2^64 - 1`. -/
theorem test_setbits_whole :
    seen (fun c => c.cache 8) (run (caching 8 0x0123456789ABCDEF) [] 0x09082000 0xFFFFFFFFFFFFFFFF)
    = some (some 0xFFFFFFFFFFFFFFFF) := by decide

theorem test_getbit : seen (fun c => c.rdata) (run (caching 8 0x8000000000000000) [] 0x0A08003F 0)
    = some (some 1) := by decide
theorem test_getbit_past_top : codes (run (caching 3 0xA5) [] 0x0A030008 0) = some [3] := by decide

theorem test_setbit : seen (fun c => c.cache 4) (run (caching 4 0x3C0) [] 0x0B040007 0) = some (some 0x340) := by decide
theorem test_setbit_two : codes (run (caching 3 0) [] 0x0B030000 2) = some [1] := by decide

/-! ### Check order (B6) -/

theorem test_order_reserved : codes (run booted [] 0x0901421E 0x10) = some [4] := by decide
theorem test_order_index : codes (run booted [] 0x09C8021E 0x10) = some [5] := by decide
theorem test_order_unconstructed : codes (run booted [] 0x0901021E 0x10) = some [6] := by decide
theorem test_order_geometry : codes (run (caching 1 0) [] 0x0901021E 0x10) = some [3] := by decide
theorem test_order_read_only : codes (run (caching 6 0x80000000) [] 0x07060000 0) = some [7] := by decide

/-! ### Packed arrays (B8) -/

theorem test_pfetch : seen (fun c => (c.rdata, c.accesses)) (run booted [0x20] 0x1000000B 0)
    = some (some 4, [.bus .read 0x3F200004 4 0x20]) := by decide
theorem test_pfetch_pin : codes (run booted [] 0x10000036 0) = some [2] := by decide

theorem test_pstore : seen (fun c => (c.rdata, c.accesses)) (run booted [0xFFFFFFFF] 0x1100000B 4)
    = some (none, [.bus .read 0x3F200004 4 0xFFFFFFFF, .bus .write 0x3F200004 4 0xFFFFFFE7]) := by decide
/-- B8: the unused bits 31:30 are written back as read. -/
theorem test_pstore_unused : seen (fun c => c.accesses.getLast?) (run booted [0xC0000000] 0x11000009 7)
    = some (some (.bus .write 0x3F200000 4 0xF8000000)) := by decide

/-! ### System operations (B9, B10) -/

/-- B9, first row. -/
theorem test_initexc :
    seen (fun c => (c.accesses, c.vbar, c.vbarWritten, c.trapctl, c.spsel, c.mask))
      (run { booted with trapctl := 0x131 } [] 0x20000000 0)
    = some ([.sys .write .vbar 0x80000, .sys .read .trapctl 0x131, .sys .write .trapctl 0x53F, .sys .write .spsel 1,
        .sys .read .mask 0x3C0, .sys .write .mask 0], 0x80000, true, 0x53F, 1, 0) := by decide

theorem test_getcid : seen (fun c => (c.rdata, c.accesses)) (run booted [] 0x21000000 0)
    = some (some 0, [.sys .read .coreid 0x80000000]) := by decide

theorem test_halt : seen (fun c => (c.run, c.status, c.diag)) (run booted [] 0x22000000 0)
    = some (.halted, none, []) := by decide

/-- B10: TERMINATED after one pulse, and whether core 0 stays RUNNING, for either answer of the host. -/
def poweredOff (answer : Bool) : Option (Bool × Option (RunState × List Bool)) :=
  match step { machine booted with honours := [answer], inputs := [.command 0 0x23000000 0] } with
  | .next t => some (t.terminated, (t.cores[0]?).map fun c => (c.run, c.exitReqs))
  | .fault _ => none
  | .refused _ => none

theorem test_poweroff_honoured : poweredOff true = some (true, some (.running, [true])) := by decide
theorem test_poweroff_ignored : poweredOff false = some (false, some (.halted, [false])) := by decide

/-! ### Boot (B11), traps (B12), byte order (B14) -/

/-- B11: core 2 with SPSEL drawn 0. -/
theorem test_boot_secondary :
    seenOf 2 (fun c => (c.activeSP, c.arg0, c.pc, c.diag))
      (step { State.reset with cores := List.replicate 4 (Core.reset 10 { Draw.chosen with spsel := 0 }),
                               inputs := [.boot 2] })
    = some (some 0x3FFE0000, 2, 0x81000, [.coreReport 2]) := by decide

/-- B11: the stack top wraps below zero without an error. -/
theorem test_stack_wraps :
    stackTop { Config.cfgT with ramTop := 0x10000 } 2 = 0xFFFFFFFFFFFF0000 := by decide

/-- B11: the field of all 64 bits. -/
theorem test_core_id_all :
    coreIdField { Config.cfgT with cidWidth := 64 } 0xFFFFFFFFFFFFFFFF = 0xFFFFFFFFFFFFFFFF := by decide

/-- The machine after INITEXC, with a trap event presented. -/
def trapped (i : Input) (c : Core) : Result :=
  step { machine { c with vbar := 0x80000, vbarWritten := true } with inputs := [i] }

/-- B12, the source's scenario A8. -/
theorem test_trap_synchronous :
    seen (fun c => (c.pc, c.arg0, c.diag, c.run)) (trapped (.trap 0 .synchronous ⟨.current, 1, 2, 3⟩) booted)
    = some (0x80200, 0x23, [.trapReport 2 3 1 2 3], .halted) := by decide

/-- B12: a deliverable FIQ from a lower 32-bit level (MASK 0x380, TRAPCTL 0x004). -/
theorem test_trap_fiq :
    seen (fun c => (c.pc, c.arg0, c.accesses))
      (trapped (.deliver 0 .fiq)
        { booted with mask := 0b1110, trapctl := 4, pendFiq := some ⟨.lower, 1, 2, 3⟩ })
    = some (0x80700, 0x01, [.sys .read .elr 1, .sys .read .esr 2, .sys .read .far 3]) := by decide

/-- B12: VBAR drawn equal to the table's base, but never written. -/
theorem test_trap_undefined :
    seen (fun c => c) (step { machine { booted with vbar := 0x80000 } with
      inputs := [.trap 0 .synchronous ⟨.current, 1, 2, 3⟩] })
    = some { booted with vbar := 0x80000, run := .faulted } := by decide

/-- R12, R171, decision D26: FAULTED is never final, not in a TERMINATED machine either; without it, that machine's run
is over. -/
theorem test_faulted_never_final :
    (step { machine { booted with run := .faulted } with terminated := true },
     step { machine booted with terminated := true }) = (.fault .undefinedVector, .refused .runOver) := rfl

/-- B14: byte order, seen through accesses of other widths. -/
theorem test_byte_order :
    (let m := Memory.writeLE ((List.range 8).map fun k => (0x3F003008 + k, 0)) 0x3F003008 8 0x1122334455667788
     (Memory.read m 0x3F003008, Memory.readLE m 0x3F003008 4, Memory.readLE m 0x3F00300E 2))
    = (some 0x88, some 0x55667788, some 0x1122) := by decide

/-- The decoded word runs as the first command after reset: NEWZ 0 completes. -/
theorem test_first_command :
    seen (fun c => (c.cache 0, c.status)) (step (State.reset.withFetchWord 32 0x01000000))
    = some (some 0, some .ok) := by decide

/-! ### Witnesses: a state and operands that meet all the hypotheses of an obligation -/

/-- The outcome is a next state. -/
def isNext : Result → Bool
  | .next _ => true
  | .fault _ => false
  | .refused _ => false

theorem answers_next {r : Result} (h : isNext r = true) : ∃ t, r = .next t := by
  cases r with
  | next t => exact ⟨t, rfl⟩
  | fault _ => cases h
  | refused _ => cases h

theorem ready (c : Core) (h : c.run = .running) : Ready (machine c) c := ⟨test_cfg_t_wf, rfl, h, rfl⟩

/-- `machine` on CFG-T with other handles and packed arrays. -/
def configured (cfg : Config) (c : Core) : State := { machine c with cfg := cfg }

/-- Two byte handles at the ends of the vector table. -/
def tableCfg : Config := { Config.cfgT with ht := [⟨.mmio 0x80000, 8⟩, ⟨.mmio 0x807FF, 8⟩] }

/-- The word of `PT[0]` that owns pins 10 to 19 is plain storage. -/
def storage : Memory := [(0x3F200004, 0x20), (0x3F200005, 0), (0x3F200006, 0), (0x3F200007, 0xC0)]

theorem witness_DecodeOfEncodeIsTheCommand :
    Instr.wf (.setbits 255 127 127) = true ∧ Instr.wf (.pstore 255 65535) = true := by decide
theorem witness_EncodeOfDecodeIsTheWord : decode 0x09FF3FFF = .ok (.setbits 255 127 127) := by decide
theorem witness_OpcodeMapDecidesEveryWord :
    (⟨"GETBIT", 0x0A000000, 0xFF00FF80⟩ : OpcodeRow) ∈ opcodeMap := by decide

theorem witness_StepRunsTheDecodedCommand :
    let s := { machine booted with inputs := [.command 0 0x23000000 1] }
    s.cfg.wf = true ∧ s.inputs = .command 0 0x23000000 1 :: [] ∧ s.accepts 0 = true ∧
      decode 0x23000000 = .ok .poweroff := by
  refine ⟨by decide, rfl, by decide, by decide⟩

/-- An illegal word; then the first index past each table. -/
theorem witness_IllegalWordsAndIndicesAreFatal :
    (let s := { machine booted with inputs := [.command 0 0x22000001 0] }
     s.cfg.wf = true ∧ s.inputs = .command 0 0x22000001 0 :: [] ∧ s.cores[0]? = some booted ∧
      booted.run = .running ∧ s.terminated = false ∧ ∀ r ∈ opcodeMap, r.covers 0x22000001 = false) ∧
    (Ready (machine booted) booted ∧ handleIndex (.getv 10) = some 10 ∧ (machine booted).cfg.nh ≤ 10 ∧
      (machine booted).cfg.na ≤ 5) :=
  ⟨⟨by decide, rfl, rfl, rfl, rfl, by decide⟩, ready booted rfl, rfl, by decide, by decide⟩

theorem witness_UnacceptedCommandChangesNothing :
    let s := { machine booted with inputs := [.command 1 0x22000000 0] }
    s.cfg.wf = true ∧ s.inputs = .command 1 0x22000000 0 :: [] ∧ s.accepts 1 = false :=
  ⟨by decide, rfl, by decide⟩

/-- Each code is the first failure of some command. -/
theorem witness_FatalIsTheFirstFailingCheck :
    Ready (machine booted) booted ∧
    firstFailure (.newv 3) (machine booted) { booted with wdata := 0x100 } = some .valueRange ∧
    firstFailure (.pfetch 0 54) (machine booted) booted = some .pinRange ∧
    firstFailure (.getbits 1 33 0) (machine booted) (caching 1 0) = some .fieldGeometry ∧
    firstFailure (.newz 10) (machine booted) booted = some .badIndex ∧
    firstFailure (.store 6) (machine booted) booted = some .unconstructed ∧
    firstFailure (.store 6) (machine booted) (caching 6 0) = some .readOnly :=
  ⟨ready booted rfl, by decide, by decide, by decide, by decide, by decide, by decide⟩

theorem witness_PassedChecksComplete :
    Ready (machine (caching 1 5)) (caching 1 5) ∧
    firstFailure (.store 1) (machine (caching 1 5)) (caching 1 5) = none ∧ Instr.store 1 ≠ .halt ∧
    Instr.store 1 ≠ .poweroff ∧
    ∀ a n, storeTarget (.store 1) (machine (caching 1 5)) = some (a, n) →
      inVectorTable (machine (caching 1 5)).cfg a n = false := by
  refine ⟨ready _ rfl, by decide, by decide, by decide, fun a n h => ?_⟩
  have ht : storeTarget (.store 1) (machine (caching 1 5)) = some (0x3F200094, 4) := by decide
  rw [ht] at h
  cases h
  decide

/-- The first and the last byte of the table. -/
theorem witness_VectorTableWritesAreRefused :
    (let s := configured tableCfg (caching 0 5)
     Ready s (caching 0 5) ∧ firstFailure (.store 0) s (caching 0 5) = none ∧
      storeTarget (.store 0) s = some (0x80000, 1) ∧ s.cfg.vtBase.toNat ≤ 0x80000) ∧
    (let s := configured tableCfg (caching 1 5)
     Ready s (caching 1 5) ∧ firstFailure (.store 1) s (caching 1 5) = none ∧
      storeTarget (.store 1) s = some (0x807FF, 1) ∧ 0x807FF < s.cfg.vtBase.toNat + 2048) :=
  ⟨⟨⟨by decide, rfl, rfl, rfl⟩, by decide, by decide, by decide⟩,
   ⟨⟨by decide, rfl, rfl, rfl⟩, by decide, by decide, by decide⟩⟩

/-- The last handle, and the first index past the table. -/
theorem witness_NewzZeroesTheCache :
    Ready (machine booted) booted ∧ booted.caches.length = (machine booted).cfg.nh ∧ 9 < (machine booted).cfg.nh ∧
      (machine booted).cfg.nh ≤ 10 := ⟨ready booted rfl, by decide, by decide, by decide⟩

/-- The largest value accepted, and the smallest refused. -/
theorem witness_NewvWritesTheCache :
    (let c := { booted with wdata := 0xFF }
     Ready (machine c) c ∧ (machine c).cfg.ht[3]? = some ⟨.mmio 0x3F201000, 8⟩ ∧
      c.caches.length = (machine c).cfg.nh ∧ c.wdata.toNat < 2 ^ 8) ∧
    (let c := { booted with wdata := 0x100 }
     Ready (machine c) c ∧ 2 ^ 8 ≤ c.wdata.toNat) :=
  ⟨⟨ready _ rfl, by decide, by decide, by decide⟩, ⟨ready _ rfl, by decide⟩⟩

/-- The largest value accepted, the smallest refused, an unconstructed handle, and the first index past the table. -/
theorem witness_SetvWritesTheCache :
    (let c := { caching 3 7 with wdata := 0xFF }
     Ready (machine c) c ∧ c.caches.length = (machine c).cfg.nh ∧
      (machine c).cfg.ht[3]? = some ⟨.mmio 0x3F201000, 8⟩ ∧ (c.cache 3).isSome = true ∧ c.wdata.toNat < 2 ^ 8 ∧
      c.cache 9 = none ∧ 9 < (machine c).cfg.nh ∧ (machine c).cfg.nh ≤ 10) ∧
    (let c := { caching 3 7 with wdata := 0x100 }
     Ready (machine c) c ∧ (c.cache 3).isSome = true ∧ 2 ^ 8 ≤ c.wdata.toNat) :=
  ⟨⟨ready _ rfl, by decide, by decide, by decide, by decide, by decide, by decide, by decide⟩,
   ⟨ready _ rfl, by decide, by decide⟩⟩

/-- A bus register and a system register. -/
theorem witness_NewfReadsOnce :
    Ready (machine booted) booted ∧ (machine booted).cfg.ht[8]? = some ⟨.mmio 0x3F003008, 64⟩ ∧
    (machine booted).cfg.ht[6]? = some ⟨.sysreg .coreid, 64⟩ ∧ booted.caches.length = (machine booted).cfg.nh :=
  ⟨ready _ rfl, by decide, by decide, by decide⟩

/-- A constructed handle, an unconstructed one, and the first index past the table. -/
theorem witness_FetchReadsOnce :
    let c := caching 8 7
    Ready (machine c) c ∧ c.caches.length = (machine c).cfg.nh ∧
      (machine c).cfg.ht[8]? = some ⟨.mmio 0x3F003008, 64⟩ ∧ (c.cache 8).isSome = true ∧ c.cache 9 = none ∧
      9 < (machine c).cfg.nh ∧ (machine c).cfg.nh ≤ 10 :=
  ⟨ready _ rfl, by decide, by decide, by decide, by decide, by decide, by decide⟩

/-- Storage behind handle 3 and pin 11; a scripted answer behind handle 2 and pin 9, the pin below the word of pin 11. -/
theorem witness_BusReadAnswersFromStorageThenScript :
    let c := { booted with caches := (booted.caches.set 2 (some 0)).set 3 (some 0), wdata := 7 }
    let p : PackedArray := ⟨0x3F200000, 3, 6, 54⟩
    let s := { machine c with mem := storage ++ [(0x3F201000, 0x5A)], answers := [0xBEEF] }
    Ready s c ∧ s.answers = 0xBEEF :: [] ∧
      (s.cfg.ht[3]? = some ⟨.mmio 0x3F201000, 8⟩ ∧ (c.cache 3).isSome = true ∧
        Memory.readLE s.mem 0x3F201000 (8 / 8) = some 0x5A) ∧
      (s.cfg.ht[2]? = some ⟨.mmio 0x3F201024, 16⟩ ∧ (c.cache 2).isSome = true ∧
        Memory.readLE s.mem 0x3F201024 (16 / 8) = none) ∧
      (s.cfg.pt[0]? = some p ∧ 11 < p.maxPins ∧ c.wdata.toNat < 2 ^ p.sz ∧
        inVectorTable s.cfg (wordAddr p 11) 4 = false ∧
        Memory.readLE s.mem (wordAddr p 11).toNat 4 = some 0xC0000020) ∧
      (9 < p.maxPins ∧ inVectorTable s.cfg (wordAddr p 9) 4 = false ∧
        Memory.readLE s.mem (wordAddr p 9).toNat 4 = none) :=
  ⟨⟨by decide, rfl, rfl, rfl⟩, rfl, by decide, by decide, by decide, by decide⟩

/-- A constructed handle, an unconstructed one, and the first index past the table. -/
theorem witness_GetvReturnsTheCache :
    Ready (machine (caching 9 3)) (caching 9 3) ∧ 9 < (machine (caching 9 3)).cfg.nh ∧
      (caching 9 3).cache 9 = some 3 ∧ (caching 9 3).cache 0 = none ∧ (machine (caching 9 3)).cfg.nh ≤ 10 :=
  ⟨ready _ rfl, by decide, by decide, by decide, by decide⟩

theorem witness_StoreWritesTheSystemRegister :
    let c := caching 4 0xFFFFFFFFFFFFFFFF
    Ready (machine c) c ∧ (machine c).cfg.ht[4]? = some ⟨.sysreg .mask, 64⟩ ∧ SysReg.mask ≠ .coreid ∧
      c.cache 4 = some 0xFFFFFFFFFFFFFFFF := ⟨ready _ rfl, by decide, by decide, by decide⟩

theorem witness_StoreWritesTheBusRegister :
    let c := caching 8 0x0123456789ABCDEF
    Ready (machine c) c ∧ (machine c).cfg.ht[8]? = some ⟨.mmio 0x3F003008, 64⟩ ∧
      c.cache 8 = some 0x0123456789ABCDEF ∧ inVectorTable (machine c).cfg 0x3F003008 (64 / 8) = false :=
  ⟨ready _ rfl, by decide, by decide, by decide⟩

/-- A field and a bit that end at the top of the register. -/
theorem witness_GetbitsAndGetbitReadTheField :
    let c := caching 1 0x12345678
    Ready (machine c) c ∧ (machine c).cfg.ht[1]? = some ⟨.mmio 0x3F200094, 32⟩ ∧ c.cache 1 = some 0x12345678 ∧
      28 + 4 ≤ 32 ∧ 31 < 32 := ⟨ready _ rfl, by decide, by decide, by decide, by decide⟩

theorem witness_SetbitsAndSetbitReplaceTheField :
    (let c := { caching 2 0xBEEF with wdata := 0xF }
     Ready (machine c) c ∧ (machine c).cfg.ht[2]? = some ⟨.mmio 0x3F201024, 16⟩ ∧
      c.caches.length = (machine c).cfg.nh ∧ c.cache 2 = some 0xBEEF ∧ (0xBEEF : Word).toNat < 2 ^ 16 ∧
      12 + 4 ≤ 16 ∧ c.wdata.toNat < 2 ^ 4) ∧
    (let c := { caching 2 0xBEEF with wdata := 1 }
     Ready (machine c) c ∧ c.cache 2 = some 0xBEEF ∧ 15 < 16 ∧ c.wdata.toNat < 2) :=
  ⟨⟨ready _ rfl, by decide, by decide, by decide, by decide, by decide, by decide⟩,
   ⟨ready _ rfl, by decide, by decide, by decide⟩⟩

/-- The largest value that fits, and the smallest that does not. -/
theorem witness_BitFieldIsolation :
    (let c := { caching 2 0xBEEF with wdata := 0xF }
     Ready (machine c) c ∧ (machine c).cfg.ht[2]? = some ⟨.mmio 0x3F201024, 16⟩ ∧
      c.caches.length = (machine c).cfg.nh ∧ c.cache 2 = some 0xBEEF ∧ (0xBEEF : Word).toNat < 2 ^ 16 ∧
      12 + 4 ≤ 16 ∧ c.wdata.toNat < 2 ^ 4) ∧
    (let c := { caching 2 0xBEEF with wdata := 0x10 }
     Ready (machine c) c ∧ c.cache 2 = some 0xBEEF ∧ 2 ^ 4 ≤ c.wdata.toNat) :=
  ⟨⟨ready _ rfl, by decide, by decide, by decide, by decide, by decide, by decide⟩,
   ⟨ready _ rfl, by decide, by decide⟩⟩

theorem witness_PackedElementsLieInTheirWords :
    Config.cfgT.wf = true ∧ Config.cfgT.pt[0]? = some ⟨0x3F200000, 3, 6, 54⟩ ∧ 53 < 54 := by decide

/-- The last pin, and for its last clause a pin whose word is storage; the first pin that is not one; the first index
past the table. -/
theorem witness_PfetchReadsTheElement :
    let s := { machine booted with mem := storage }
    Ready s booted ∧ s.cfg.pt[0]? = some ⟨0x3F200000, 3, 6, 54⟩ ∧ 53 < 54 ∧ 11 < 54 ∧
      elementValue s.mem ⟨0x3F200000, 3, 6, 54⟩ 11 = some 4 ∧ 54 ≤ 54 ∧ s.cfg.na ≤ 5 :=
  ⟨⟨by decide, rfl, rfl, rfl⟩, by decide, by decide, by decide, by decide, by decide, by decide⟩

/-- The largest value that fits, and the smallest that does not; the first pin that is not one; the first index past
the table. -/
theorem witness_PstoreRewritesOneWord :
    (let c := { booted with wdata := 8 }
     Ready (machine c) c ∧ 2 ^ 3 ≤ c.wdata.toNat ∧ 53 < 54 ∧ 54 ≤ 54 ∧ (machine c).cfg.na ≤ 5) ∧
    let c := { booted with wdata := 7 }
    let s := { machine c with mem := storage }
    Ready s c ∧ s.cfg.pt[0]? = some ⟨0x3F200000, 3, 6, 54⟩ ∧ 11 < 54 ∧ c.wdata.toNat < 2 ^ 3 ∧
      inVectorTable s.cfg (wordAddr ⟨0x3F200000, 3, 6, 54⟩ 11) 4 = false ∧
      Memory.readLE s.mem (wordAddr ⟨0x3F200000, 3, 6, 54⟩ 11).toNat 4 = some 0xC0000020 :=
  ⟨⟨ready _ rfl, by decide, by decide, by decide, by decide⟩,
   ⟨by decide, rfl, rfl, rfl⟩, by decide, by decide, by decide, by decide, by decide⟩

/-- Pin 11 is stored; pins 10 and 19, the ends of its word, keep their elements. -/
theorem witness_PackedStoreThenFetch :
    let c := { booted with wdata := 7 }
    let s := { machine c with mem := storage }
    Ready s c ∧ s.cfg.pt[0]? = some ⟨0x3F200000, 3, 6, 54⟩ ∧ 11 < 54 ∧ c.wdata.toNat < 2 ^ 3 ∧
      inVectorTable s.cfg (wordAddr ⟨0x3F200000, 3, 6, 54⟩ 11) 4 = false ∧
      (Memory.readLE s.mem (wordAddr ⟨0x3F200000, 3, 6, 54⟩ 11).toNat 4).isSome = true ∧
      elementValue s.mem ⟨0x3F200000, 3, 6, 54⟩ 10 = some 0 ∧ elementValue s.mem ⟨0x3F200000, 3, 6, 54⟩ 19 = some 0 :=
  ⟨⟨by decide, rfl, rfl, rfl⟩, by decide, by decide, by decide, by decide, by decide, by decide, by decide⟩

/-- INITEXC with and without its routing step. -/
theorem witness_InitexcInstallsAndArmsTheTable :
    Ready (machine booted) booted ∧ (machine booted).cfg.initRouting = true ∧
    Ready (configured { Config.cfgT with initRouting := false } booted) booted :=
  ⟨ready booted rfl, rfl, ⟨by decide, rfl, rfl, rfl⟩⟩

theorem witness_GetcidReadsTheCoreId : Ready (machine booted) booted := ready booted rfl
theorem witness_HaltOnlyHalts : Ready (machine booted) booted := ready booted rfl

theorem witness_PoweroffTerminatesOrHalts :
    let s := { machine booted with honours := [true] }
    Ready s booted ∧ s.honours = true :: [] := ⟨⟨by decide, rfl, rfl, rfl⟩, rfl⟩

/-- A core whose handles are all unconstructed has no cached value. -/
theorem unconstructed {c : Core} (hc : c.caches = List.replicate 10 none) (h : Nat) (v : Word) : c.cache h ≠ some v := by
  simp only [Core.cache, hc, List.getElem?_replicate]
  split <;> simp

/-- The machine keeps the invariants. -/
theorem machine_inv : Inv (machine booted) := by
  refine ⟨by decide, by decide, fun j c hc => ?_, by decide⟩
  match j, hc with
  | 0, hc =>
    cases hc
    exact ⟨by decide, fun h _ v _ hv => absurd hv (unconstructed rfl h v), by decide, by decide, by decide,
      by decide⟩
  | 1, hc =>
    cases hc
    exact ⟨by decide, fun h _ v _ hv => absurd hv (unconstructed rfl h v), by decide, by decide, by decide,
      by decide⟩
  | 2, hc =>
    cases hc
    exact ⟨by decide, fun h _ v _ hv => absurd hv (unconstructed rfl h v), by decide, by decide, by decide,
      by decide⟩
  | 3, hc =>
    cases hc
    exact ⟨by decide, fun h _ v _ hv => absurd hv (unconstructed rfl h v), by decide, by decide, by decide,
      by decide⟩
  | n + 4, hc => cases hc

/-- The invariant does not look at what is presented. -/
theorem inv_inputs {s : State} (h : Inv s) (inputs : List Input) : Inv { s with inputs := inputs } :=
  ⟨h.wf, h.cores, fun j c hc => ⟨(h.core j c hc).caches, (h.core j c hc).width, (h.core j c hc).primary,
    (h.core j c hc).quiet, (h.core j c hc).once, (h.core j c hc).reported⟩, h.mem⟩

theorem machine_quiet : SecondariesQuiet (machine booted) := by
  intro j c hc h0
  match j, hc with
  | 0, hc => exact absurd (by decide) h0
  | 1, hc => cases hc; exact ⟨.inr rfl, rfl⟩
  | 2, hc => cases hc; exact ⟨.inr rfl, rfl⟩
  | 3, hc => cases hc; exact ⟨.inr rfl, rfl⟩
  | n + 4, hc => cases hc

theorem witness_GetcidThroughThePortReturnsZero : Inv (machine booted) ∧ Ready (machine booted) booted :=
  ⟨machine_inv, ready booted rfl⟩

/-- A command that stores on the bus answers a next state and has a store target. -/
theorem witness_CommandsWriteOnlyTheirStoreTarget :
    (∃ t, exec (.store 1) (machine (caching 1 5)) = .next t) ∧
    storeTarget (.store 1) (machine (caching 1 5)) = some (0x3F200094, 4) ∧
    (∃ t, exec .getcid (machine booted) = .next t) ∧ storeTarget .getcid (machine booted) = none :=
  ⟨answers_next rfl, by decide, answers_next rfl, rfl⟩

theorem witness_CommandsLeaveTheCoreRegisters : ∃ t, exec .initexc (machine booted) = .next t :=
  answers_next rfl

theorem witness_OnlyInitexcAndSysregStoresWriteSystemRegisters :
    ∃ t c', exec (.newz 0) (machine booted) = .next t ∧ (machine booted).cores[(machine booted).cur]? = some booted ∧
      t.cores[t.cur]? = some c' ∧ writesSys (.newz 0) (machine booted) = false ∧
      (∃ u, exec (.pfetch 0 0) (machine booted) = .next u) ∧ handleIndex (.pfetch 0 0) = none :=
  ⟨_, _, rfl, rfl, rfl, rfl, ⟨_, rfl⟩, rfl⟩

/-- The primary core and a secondary, the id passed and not passed. -/
theorem witness_BootTransition :
    (let s := { State.reset with inputs := [.boot 0] }
     s.cfg.wf = true ∧ s.inputs = .boot 0 :: [] ∧ s.cores[0]? = some (Core.reset 10 Draw.chosen) ∧
      (Core.reset 10 Draw.chosen).run = .reset ∧ s.terminated = false ∧ s.coreId 0 = 0 ∧ s.cfg.passCoreid = true) ∧
    (let s := { State.reset with inputs := [.boot 3], cfg := { Config.cfgT with passCoreid := false } }
     s.cfg.wf = true ∧ s.inputs = .boot 3 :: [] ∧ s.cores[3]? = some (Core.reset 10 Draw.chosen) ∧
      s.terminated = false ∧ s.coreId 3 ≠ 0 ∧ s.cfg.passCoreid = false) :=
  ⟨⟨by decide, rfl, rfl, rfl, rfl, by decide, rfl⟩, ⟨by decide, rfl, rfl, rfl, by decide, rfl⟩⟩

/-- The second core is the lowest in RESET. -/
theorem witness_BootRunsWithNothingPresented :
    let s := { State.reset with cores := booted :: List.replicate 3 (Core.reset 10 Draw.chosen) }
    s.cfg.wf = true ∧ s.inputs = [] ∧ s.terminated = false ∧ s.cores[1]? = some (Core.reset 10 Draw.chosen) ∧
      (Core.reset 10 Draw.chosen).run = .reset ∧ ∀ i d, i < 1 → s.cores[i]? = some d → d.run ≠ .reset := by
  refine ⟨by decide, rfl, rfl, rfl, rfl, fun i d hi h => ?_⟩
  match i, hi, h with
  | 0, _, h => cases h; decide

/-- Adjacent ids, and a region that starts at address 0. -/
theorem witness_StackRegionsAreDisjoint :
    (0 < Config.cfgT.stackSize.toNat ∧ (2 : Word) < 3 ∧
      ((3 : Word).toNat + 1) * Config.cfgT.stackSize.toNat ≤ Config.cfgT.ramTop.toNat ∧ (3 : Word) = 2 + 1) ∧
    ((0 : Word) < 0x3FFF ∧ ((0x3FFF : Word).toNat + 1) * Config.cfgT.stackSize.toNat ≤ Config.cfgT.ramTop.toNat) := by
  decide

/-- Each group's selecting bit at both of its values. -/
theorem witness_GroupSelection :
    booted.spselValue.getLsbD 0 = true ∧ ({ booted with spsel := 0 } : Core).spselValue.getLsbD 0 = false ∧
    ({ booted with trapctl := 0x400 } : Core).trapctl.getLsbD 10 = true ∧ booted.trapctl.getLsbD 10 = false := by decide

/-- The lowest and the highest aligned base. -/
theorem witness_SlotsTileTheTable :
    (0 : Word).toNat % 2048 = 0 ∧ (0xFFFFFFFFFFFFF800 : Word).toNat % 2048 = 0 := by decide
theorem witness_TagsNameTheirSlots : Config.cfgT.wf = true := by decide

/-- Core 0 after INITEXC: table installed, nothing masked, everything routed. -/
def armed : Core :=
  { booted with vbar := 0x80000, vbarWritten := true, trapctl := 0x40E, mask := 0,
                pendIrq := some ⟨.current, 1, 2, 3⟩ }

theorem witness_SynchronousTrapIsDelivered :
    let s := { machine armed with inputs := [.trap 0 .synchronous ⟨.lower, 1, 2, 3⟩] }
    s.cfg.wf = true ∧ s.inputs = .trap 0 .synchronous ⟨.lower, 1, 2, 3⟩ :: [] ∧ s.cores[0]? = some armed ∧
      armed.run = .running ∧ s.terminated = false ∧ armed.vbarWritten = true ∧ armed.vbar = s.cfg.vtBase :=
  ⟨by decide, rfl, rfl, rfl, rfl, rfl, rfl⟩

/-- VBAR never written, and a synchronous trap; another table, and a deliverable class. -/
theorem witness_UndefinedVectorFaults :
    (let s := { machine booted with inputs := [.trap 0 .synchronous ⟨.lower, 1, 2, 3⟩] }
     s.cfg.wf = true ∧ s.inputs = .trap 0 .synchronous ⟨.lower, 1, 2, 3⟩ :: [] ∧ s.cores[0]? = some booted ∧
      booted.run = .running ∧ s.terminated = false ∧ booted.vbarWritten = false) ∧
    (let c := { armed with vbar := 0x80004 }
     let s := { machine c with inputs := [.deliver 0 .irq] }
     s.cfg.wf = true ∧ s.inputs = .deliver 0 .irq :: [] ∧ s.cores[0]? = some c ∧ c.run = .running ∧
      s.terminated = false ∧ c.vbar ≠ s.cfg.vtBase ∧ c.deliverable .irq = true) :=
  ⟨⟨by decide, rfl, rfl, rfl, rfl, rfl⟩, ⟨by decide, rfl, rfl, rfl, rfl, by decide, by decide⟩⟩

theorem witness_SynchronousTrapIsDroppedElsewhere :
    let s := { machine armed with inputs := [.trap 1 .synchronous ⟨.lower, 1, 2, 3⟩] }
    s.cfg.wf = true ∧ s.inputs = .trap 1 .synchronous ⟨.lower, 1, 2, 3⟩ :: [] ∧ s.accepts 1 = false :=
  ⟨by decide, rfl, by decide⟩

/-- An event that replaces an earlier one of its class. -/
theorem witness_AsynchronousTrapBecomesPending :
    let s := { machine armed with inputs := [.trap 0 .irq ⟨.lower, 4, 5, 6⟩] }
    s.cfg.wf = true ∧ s.inputs = .trap 0 .irq ⟨.lower, 4, 5, 6⟩ :: [] ∧ TrapClass.irq ≠ .synchronous ∧
      s.cores[0]? = some armed := ⟨by decide, rfl, by decide, rfl⟩

/-- Core 0 after INITEXC with a trap of each class pending. -/
def pending : Core :=
  { armed with pendFiq := some ⟨.lower, 4, 5, 6⟩, pendSError := some ⟨.current, 7, 8, 9⟩ }

/-- Each class on a core where it is deliverable. -/
theorem witness_DeliverableClassIsDelivered :
    (let s := { machine pending with inputs := [.deliver 0 .irq] }
     s.cfg.wf = true ∧ s.inputs = .deliver 0 .irq :: [] ∧ s.cores[0]? = some pending ∧ s.terminated = false ∧
      pending.vbarWritten = true ∧ pending.vbar = s.cfg.vtBase) ∧
    (pending.run = .running ∧ pending.pending .irq = some ⟨.current, 1, 2, 3⟩ ∧
      pending.maskValue.getLsbD 7 = false ∧ pending.trapctl.getLsbD 1 = true ∧ pending.deliverable .irq = true) ∧
    (pending.pending .fiq = some ⟨.lower, 4, 5, 6⟩ ∧ pending.maskValue.getLsbD 6 = false ∧
      pending.trapctl.getLsbD 2 = true ∧ pending.deliverable .fiq = true) ∧
    (pending.pending .serror = some ⟨.current, 7, 8, 9⟩ ∧ pending.maskValue.getLsbD 8 = false ∧
      pending.trapctl.getLsbD 3 = true ∧ pending.deliverable .serror = true) :=
  ⟨⟨by decide, rfl, rfl, rfl, rfl, rfl⟩, by decide, by decide, by decide⟩

/-- Each reason: the FIQ class is not pending, the IRQ class masked, the SError class not routed, the core HALTED, the
machine TERMINATED. -/
theorem witness_UndeliverableClassStaysPending :
    (let s := { machine armed with inputs := [.deliver 0 .fiq] }
     s.cfg.wf = true ∧ s.inputs = .deliver 0 .fiq :: [] ∧ s.cores[0]? = some armed ∧ armed.pending .fiq = none) ∧
    (let c := { pending with mask := 0b0010 }
     let s := { machine c with inputs := [.deliver 0 .irq] }
     s.cfg.wf = true ∧ s.inputs = .deliver 0 .irq :: [] ∧ s.cores[0]? = some c ∧ c.maskValue.getLsbD 7 = true) ∧
    (let c := { pending with trapctl := 0x406 }
     let s := { machine c with inputs := [.deliver 0 .serror] }
     s.cfg.wf = true ∧ s.inputs = .deliver 0 .serror :: [] ∧ s.cores[0]? = some c ∧ c.trapctl.getLsbD 3 = false) ∧
    (let c := { pending with run := .halted }
     let s := { machine c with inputs := [.deliver 0 .irq] }
     s.cfg.wf = true ∧ s.inputs = .deliver 0 .irq :: [] ∧ s.cores[0]? = some c ∧ c.run ≠ .running) ∧
    (let s := { machine pending with terminated := true, inputs := [.deliver 0 .irq] }
     s.cfg.wf = true ∧ s.inputs = .deliver 0 .irq :: [] ∧ s.cores[0]? = some pending ∧ s.terminated = true) :=
  ⟨⟨by decide, rfl, rfl, rfl⟩, ⟨by decide, rfl, rfl, by decide⟩, ⟨by decide, rfl, rfl, by decide⟩,
   ⟨by decide, rfl, rfl, by decide⟩, ⟨by decide, rfl, rfl, rfl⟩⟩

theorem witness_StepKeepsTheInvariant :
    let s := { machine booted with inputs := [.command 0 0x20000000 0] }
    Inv s ∧ ∃ t, step s = .next t := ⟨inv_inputs machine_inv _, answers_next rfl⟩

/-- A running primary core issues a bus access while the secondaries keep quiet. -/
theorem witness_StepKeepsSecondariesQuiet :
    let s := { machine booted with inputs := [.command 0 0x03010000 0] }
    s.cfg.wf = true ∧ SecondariesQuiet s ∧ ∃ t, step s = .next t :=
  ⟨by decide, fun j c hc h0 => machine_quiet j c hc h0, answers_next rfl⟩

theorem witness_CoresDoNotInterfere :
    let s := { machine booted with inputs := [.command 0 0x22000000 0] }
    s.inputs = .command 0 0x22000000 0 :: [] ∧ Input.isReset (.command 0 0x22000000 0) = false ∧
      Input.core (.command 0 0x22000000 0) ≠ some 1 ∧ ∃ t, step s = .next t := ⟨rfl, rfl, by decide, _, rfl⟩

/-- A halted core with a trap event presented to it. -/
theorem witness_HaltedIsAbsorbing :
    let s := { machine booted with inputs := [.trap 1 .irq ⟨.current, 1, 2, 3⟩] }
    (∀ i rest, s.inputs = i :: rest → i.isReset = false) ∧ s.cores[1]? = some (secondary 1) ∧
      (secondary 1).run = .halted ∧ ∃ t, step s = .next t :=
  ⟨fun i rest h => by cases h; rfl, rfl, rfl, _, rfl⟩

theorem witness_TerminatedStopsEveryCore :
    let s := { machine booted with terminated := true, inputs := [.command 0 0x03010000 0] }
    (∀ i rest, s.inputs = i :: rest → i.isReset = false) ∧ s.terminated = true ∧ s.cores[0]? = some booted ∧
      ∃ t, step s = .next t :=
  ⟨fun i rest h => by cases h; rfl, rfl, rfl, _, rfl⟩

theorem witness_ConfigurationIsConstant :
    State.reset.cores.length = State.reset.cfg.ncores ∧ ∃ t, step State.reset = .next t := ⟨by decide, _, rfl⟩

theorem witness_HistoriesOnlyGrow :
    let s := { machine booted with inputs := [.command 0 0x23000000 0], honours := [false] }
    (∀ i rest, s.inputs = i :: rest → i.isReset = false) ∧ s.cores[0]? = some booted ∧ ∃ t, step s = .next t :=
  ⟨fun i rest h => by cases h; rfl, rfl, _, rfl⟩

/-- A command that puts a record on its core. -/
theorem witness_FatalRecordsHaltTheCore :
    let s := { machine booted with inputs := [.command 0 0 0] }
    (∀ i rest, s.inputs = i :: rest → i.isReset = false) ∧ s.cores[0]? = some booted ∧
      ∃ t c', t.cores[0]? = some c' ∧ step s = .next t ∧ c'.diag ≠ booted.diag :=
  ⟨fun i rest h => by cases h; rfl, rfl, _, _, rfl, rfl, by decide⟩

/-- Where another input is presented, the step is not the boot of core `j`. -/
theorem not_boot {s : State} {i : Input} {rest : List Input} {j : Nat} (hi : s.inputs = i :: rest) (h : i ≠ .boot j) :
    ¬ BootsNext s j := by
  rintro ⟨-, -, ⟨_, e⟩ | ⟨e, -⟩⟩ <;> rw [hi] at e <;> cases e
  exact h rfl

/-- A command; a core in RESET at a step that boots another; a trap delivery. -/
theorem witness_StackPointersChangeOnlyAtBoot :
    (let s := { machine booted with inputs := [.command 0 0x20000000 0] }
     (∀ i rest, s.inputs = i :: rest → i.isReset = false) ∧ s.cores[0]? = some booted ∧
      (∃ t c', t.cores[0]? = some c' ∧ step s = .next t) ∧ ¬ BootsNext s 0) ∧
    (let s := { State.reset with inputs := [.boot 1] }
     (∀ i rest, s.inputs = i :: rest → i.isReset = false) ∧ s.cores[0]? = some (Core.reset 10 Draw.chosen) ∧
      (∃ t c', t.cores[0]? = some c' ∧ step s = .next t) ∧ ¬ BootsNext s 0) ∧
    (let s := { machine armed with inputs := [.deliver 0 .irq] }
     (∀ i rest, s.inputs = i :: rest → i.isReset = false) ∧ s.cores[0]? = some armed ∧
      (∃ t c', t.cores[0]? = some c' ∧ step s = .next t) ∧ ¬ BootsNext s 0) :=
  ⟨⟨fun i rest h => by cases h; rfl, rfl, ⟨_, _, rfl, rfl⟩, not_boot rfl (by decide)⟩,
   ⟨fun i rest h => by cases h; rfl, rfl, ⟨_, _, rfl, rfl⟩, not_boot rfl (by decide)⟩,
   ⟨fun i rest h => by cases h; rfl, rfl, ⟨_, _, rfl, rfl⟩, not_boot rfl (by decide)⟩⟩

/-- A machine whose cores have ended, and draws for its four cores. -/
theorem witness_ExternalResetResetsEveryCore :
    let draws := List.replicate 4 { Draw.chosen with trapctl := 0x131 }
    let s := { machine (secondary 5) with inputs := [.reset draws] }
    s.cfg.wf = true ∧ s.inputs = .reset draws :: [] ∧ draws.length = s.cfg.ncores := ⟨by decide, rfl, by decide⟩

/-- Each clause: a FAULTED core, the machine TERMINATED and not; TERMINATED with none; all cores HALTED; a core
RUNNING. -/
theorem witness_EndOfARun :
    (machine booted).cfg.wf = true ∧ (machine booted).inputs = [] ∧
    (let c := { booted with run := .faulted }
     (∃ d ∈ (machine c).cores, d.run = .faulted) ∧ (machine c).terminated = false ∧
      (∀ d ∈ (machine c).cores, d.run ≠ .reset) ∧
      ({ machine c with terminated := true } : State).terminated = true) ∧
    (∀ d ∈ (machine booted).cores, d.run ≠ .faulted) ∧
    ({ machine booted with terminated := true } : State).terminated = true ∧
    ((∀ d ∈ (machine (secondary 0)).cores, d.run ≠ .faulted) ∧
      ∀ d ∈ (machine (secondary 0)).cores, d.run = .halted) ∧
    ((machine booted).terminated = false ∧ (∀ d ∈ (machine booted).cores, d.run ≠ .reset) ∧
      ∃ d ∈ (machine booted).cores, d.run = .running) := by decide

/-- The primary core runs alone: the secondaries have ended at the gate. -/
theorem witness_PoweroffEndsOrderly :
    Inv (machine booted) ∧ Ready (machine booted) booted ∧
      ∀ j d, j ≠ (machine booted).cur → (machine booted).cores[j]? = some d →
        (machine booted).coreId j ≠ 0 ∧ d.run = .halted := by
  refine ⟨machine_inv, ready booted rfl, fun j d hj hd => ?_⟩
  match j, hd with
  | 0, _ => exact absurd rfl hj
  | 1, hd => cases hd; decide
  | 2, hd => cases hd; decide
  | 3, hd => cases hd; decide
  | n + 4, hd => cases hd

end Sys2Proof.Tests
end

section
/-! SUPPORT. How the scalar register commands run on a core whose port accepts them: the checks of R80 with their
fatal outcomes, the one shape of core a completed command leaves, and the reading and writing of a field bit by
bit. -/

namespace Sys2Proof.Machine

/-! ### The handle table -/

theorem exists_handle {cfg : Config} {h : Nat} (hh : h < cfg.nh) : ∃ d, cfg.ht[h]? = some d :=
  ⟨_, List.getElem?_eq_getElem hh⟩

theorem lt_nh_of_handle {cfg : Config} {h : Nat} {d : Handle} (hd : cfg.ht[h]? = some d) : h < cfg.nh :=
  (List.getElem?_eq_some_iff.mp hd).1

/-! ### The checks of R80 -/

section Checks

variable {s : State} {c : Core} {h : Nat}

/-- An index outside the handle table is `Fatal(5)`, whatever the command. -/
theorem withHandle_outOfRange (hr : Ready s c) (hh : s.cfg.nh ≤ h) (body : Handle → Result) :
    FatalOutcome s c .badIndex (withHandle h s body) := by
  rw [withHandle_none (List.getElem?_eq_none hh)]
  exact raiseFatal_outcome _ hr.core

/-- An unconstructed cache is `Fatal(6)`, whatever the command does with the cache. -/
theorem withCache_unconstructed (hr : Ready s c) (hh : h < s.cfg.nh) (hv : c.cache h = none)
    (body : Handle → Word → Result) :
    FatalOutcome s c .unconstructed (withHandle h s fun d => withCache h s (body d)) := by
  obtain ⟨d, hd⟩ := exists_handle hh
  rw [withHandle_some hd, withCache_none hr.core hv]
  exact raiseFatal_outcome _ hr.core

/-- On a constructed handle a command's body runs on the handle and the cached value. -/
theorem withCache_constructed (hr : Ready s c) {d : Handle} {v : Word} (hd : s.cfg.ht[h]? = some d)
    (hv : c.cache h = some v) (body : Handle → Word → Result) :
    (withHandle h s fun d => withCache h s (body d)) = body d v := by
  rw [withHandle_some hd, withCache_some hr.core hv]

/-- A data operand too wide for its place is `Fatal(1)`. -/
theorem check_fits_tooWide (hr : Ready s c) {v : Word} {width : Nat} (hv : 2 ^ width ≤ v.toNat) (body : Result) :
    FatalOutcome s c .valueRange (check (fits v width) .valueRange s body) := by
  rw [check_fails (by simpa [fits] using hv)]
  exact raiseFatal_outcome _ hr.core

theorem check_fits {v : Word} {width : Nat} (hv : v.toNat < 2 ^ width) (body : Result) :
    check (fits v width) .valueRange s body = body :=
  check_holds ((fits_iff v width).mpr hv) _ s body

end Checks

/-! ### The commands on a ready core -/

section Commands

variable {s : State} {c : Core}

theorem exec_newz (hr : Ready s c) (h : Nat) :
    exec (.newz h) s = withHandle h s fun _ => complete none (s.setCache h 0) :=
  issue_of_ready hr _

theorem exec_getv (hr : Ready s c) (h : Nat) :
    exec (.getv h) s = withHandle h s fun _ => withCache h s fun v => complete (some v) s :=
  issue_of_ready hr _

theorem exec_setv (hr : Ready s c) (h : Nat) :
    exec (.setv h) s = withHandle h s fun d => withCache h s fun _ =>
      check (fits c.wdata d.width) .valueRange s <| complete none (s.setCache h c.wdata) := by
  rw [← State.core_eq hr.core]
  exact issue_of_ready hr _

theorem exec_fetch (hr : Ready s c) (h : Nat) :
    exec (.fetch h) s = withHandle h s fun d => withCache h s fun _ =>
      complete (some (hwRead d s).1) ((hwRead d s).2.setCache h (hwRead d s).1) :=
  issue_of_ready hr _

theorem exec_getbits (hr : Ready s c) (h shift width : Nat) :
    exec (.getbits h shift width) s = withHandle h s fun d => withCache h s fun v =>
      check (shift + width ≤ d.width) .fieldGeometry s <| complete (some (fieldRead v shift width)) s :=
  issue_of_ready hr _

theorem exec_setbits (hr : Ready s c) (h shift width : Nat) :
    exec (.setbits h shift width) s = withHandle h s fun d => withCache h s fun v =>
      check (shift + width ≤ d.width) .fieldGeometry s <| check (fits c.wdata width) .valueRange s <|
        complete none (s.setCache h (fieldWritten d v shift width c.wdata)) := by
  rw [← State.core_eq hr.core]
  exact issue_of_ready hr _

/-- SETBITS of a field inside the register, on a constructed handle, comes down to its value check (R89). -/
theorem exec_setbits_constructed {h shift width : Nat} {d : Handle} {v : Word}
    (hr : Ready s c) (hd : s.cfg.ht[h]? = some d) (hv : c.cache h = some v) (hg : shift + width ≤ d.width) :
    exec (.setbits h shift width) s = check (fits c.wdata width) .valueRange s
      (complete none (s.setCache h (fieldWritten d v shift width c.wdata))) := by
  rw [exec_setbits hr, withCache_constructed hr hd hv, check_holds (decide_eq_true hg)]

/-- GETBITS of a field inside the register, on a constructed handle, gives the field (R88). -/
theorem exec_getbits_constructed {h shift width : Nat} {d : Handle} {v : Word}
    (hr : Ready s c) (hd : s.cfg.ht[h]? = some d) (hv : c.cache h = some v) (hg : shift + width ≤ d.width) :
    exec (.getbits h shift width) s = complete (some (fieldRead v shift width)) s := by
  rw [exec_getbits hr, withCache_constructed hr hd hv, check_holds (decide_eq_true hg)]

end Commands

/-! ### Completion -/

/-- The core a completed register command leaves: its caches, its access history, RDATA, and STATUS OK (R26). -/
def Core.completedWith (c : Core) (caches : List (Option Word)) (accesses : List Access) (rdata : Option Word) :
    Core :=
  { c with caches := caches, accesses := accesses, rdata := rdata, status := some .ok }

theorem complete_eq_completedWith (r : Option Word) (s : State) :
    complete r s = .next (s.onCore fun k => k.completedWith k.caches k.accesses r) := rfl

theorem complete_setCache_eq_completedWith (r : Option Word) (s : State) (h : Nat) (v : Word) :
    complete r (s.setCache h v)
      = .next (s.onCore fun k => k.completedWith (k.caches.set h (some v)) k.accesses r) := by
  rw [complete_eq, State.onCore_onCore]
  rfl

theorem complete_logAccess_setCache_eq_completedWith (r : Option Word) (s : State) (access : Access) (h : Nat)
    (v : Word) :
    complete r ((s.logAccess access).setCache h v)
      = .next (s.onCore fun k => k.completedWith (k.caches.set h (some v)) (k.accesses ++ [access]) r) := by
  rw [complete_eq, State.onCore_onCore, State.onCore_onCore]
  rfl

theorem completedWith_sameSys (c : Core) (caches : List (Option Word)) (accesses : List Access)
    (rdata : Option Word) : SameSys c (c.completedWith caches accesses rdata) :=
  ⟨rfl, rfl, rfl, rfl, rfl, rfl, rfl, rfl⟩

section Completion

variable {s : State} {c : Core}

/-- A register command that completes keeps the frame of R26, whatever its bus reads used up of the environment's
answers. -/
theorem completed_onCore (hr : Ready s c) (answers : List Word) (drawn : Nat)
    (caches : Core → List (Option Word)) (accesses : Core → List Access) (r : Option Word) :
    Completed s
      (({ s with answers := answers, drawn := drawn } : State).onCore fun k =>
        k.completedWith (caches k) (accesses k) r)
      c (c.completedWith (caches c) (accesses c) r) where
  core := by simp [hr.core]
  status := rfl
  run := hr.running
  machine := ⟨rfl, rfl, rfl, rfl, rfl, fun _ hj => State.onCore_get_other _ _ hj⟩
  registers := ⟨rfl, rfl, rfl, rfl, rfl, rfl, rfl, rfl⟩
  ports := ⟨rfl, rfl, rfl, rfl, rfl, rfl, rfl⟩

/-- A command that works on its caches alone reaches no hardware. -/
theorem noAccess_onCore (s : State) (c : Core) (caches : Core → List (Option Word)) (r : Option Word) :
    NoAccess s (s.onCore fun k => k.completedWith (caches k) k.accesses r) c
      (c.completedWith (caches c) c.accesses r) where
  accesses := rfl
  sys := completedWith_sameSys ..
  memory _ := rfl
  answers := ⟨rfl, rfl⟩

/-- The core of a completed command is ready for the next one. -/
theorem Completed.ready {t : State} {c' : Core} (hc : Completed s t c c') (hr : Ready s c) : Ready t c' where
  wf := by rw [hc.machine.cfg, hr.wf]
  core := hc.core
  running := hc.run
  live := by rw [hc.machine.terminated, hr.live]

/-- Completing without a write puts the value on RDATA and does nothing else. -/
theorem complete_spec (hr : Ready s c) (r : Option Word) :
    ∃ t c', complete r s = .next t ∧ Completed s t c c' ∧ NoAccess s t c c' ∧ c'.caches = c.caches ∧
      c'.rdata = r :=
  ⟨_, _, complete_eq_completedWith r s, completed_onCore hr s.answers s.drawn Core.caches Core.accesses r,
    noAccess_onCore s c Core.caches r, rfl, rfl⟩

/-- Completing with a new value of one cache changes that cache and does nothing else. -/
theorem complete_setCache_spec (hr : Ready s c) {h : Nat} (hh : h < c.caches.length) (v : Word)
    (r : Option Word) :
    ∃ t c', complete r (s.setCache h v) = .next t ∧ Completed s t c c' ∧ NoAccess s t c c' ∧
      c'.cache h = some v ∧ OtherCaches h c c' ∧ c'.rdata = r :=
  ⟨_, _, complete_setCache_eq_completedWith r s h v,
    completed_onCore hr s.answers s.drawn (fun k => k.caches.set h (some v)) Core.accesses r,
    noAccess_onCore s c (fun k => k.caches.set h (some v)) r, (cache_set c hh v h).trans (if_pos rfl),
    fun _ hj => cache_set_other c h v hj, rfl⟩

/-- Reading a register into its cache is one access of the register, and its value goes to the cache and to RDATA
(R80, R83, R86). -/
theorem complete_hwRead_spec (hr : Ready s c) {h : Nat} (hh : h < c.caches.length) {d : Handle}
    (hd : d.wf = true) :
    ∃ t c' v access,
      complete (some (hwRead d s).1) ((hwRead d s).2.setCache h (hwRead d s).1) = .next t ∧
      Completed s t c c' ∧ SameSys c c' ∧ SameMemory s t ∧
      c'.accesses = c.accesses ++ [access] ∧ v.toNat < 2 ^ d.width ∧
      c'.cache h = some v ∧ OtherCaches h c c' ∧ c'.rdata = some v ∧
      ((∃ addr, d.loc = .mmio addr ∧ access = .bus .read addr (d.width / 8) v) ∨
       (∃ r, d.loc = .sysreg r ∧ access = .sys .read r v ∧ v = s.sysValue r ∧ SameAnswers s t)) := by
  obtain ⟨v, answers, drawn, access, hread, hv, hsource⟩ := hwRead_spec s hd
  rw [hread]
  refine ⟨_, _, v, access, complete_logAccess_setCache_eq_completedWith (some v) _ access h v,
    completed_onCore hr answers drawn (fun k => k.caches.set h (some v)) (fun k => k.accesses ++ [access]) (some v),
    completedWith_sameSys .., fun _ => rfl, rfl, hv, (cache_set c hh v h).trans (if_pos rfl),
    fun _ hj => cache_set_other c h v hj, rfl, ?_⟩
  rcases hsource with hbus | ⟨r, hloc, haccess, hvalue, ha, hn⟩
  · exact .inl hbus
  · exact .inr ⟨r, hloc, haccess, hvalue, ha, hn⟩

end Completion

/-! ### Fields, bit by bit -/

theorem getLsbD_fieldRead (v : Word) (shift width i : Nat) :
    (fieldRead v shift width).getLsbD i = (decide (i < 64) && (decide (i < width) && v.getLsbD (shift + i))) := by
  rw [fieldRead_eq, BitVec.getLsbD_ofNat, Nat.testBit_mod_two_pow, Nat.testBit_div_two_pow, Nat.add_comm i shift]
  rfl

/-- The field-write formula of R89 replaces the field and no other bit, in a register of at most 64 bits. -/
theorem fieldReplaced_fieldWritten {d : Handle} (hd : d.wf = true) {old value : Word} {shift width : Nat}
    (hold : old.toNat < 2 ^ d.width) (hg : shift + width ≤ d.width) (hv : value.toNat < 2 ^ width) :
    FieldReplaced old (fieldWritten d old shift width value) value shift width := by
  intro i
  have hlt : insertField d.width old.toNat shift width value.toNat < 2 ^ 64 :=
    Nat.lt_of_lt_of_le (insertField_lt hg hv) (Nat.pow_le_pow_right (by decide) (handle_bytes_le hd))
  have hbit := insertField_testBit (i := i) hold hg hv
  rwa [← Nat.mod_eq_of_lt hlt, ← BitVec.toNat_ofNat] at hbit

/-- Reading back a field that a write replaced by a value that fits gives the value (R92). -/
theorem fieldRead_of_fieldReplaced {old new value : Word} {shift width : Nat}
    (hf : FieldReplaced old new value shift width) (hv : value.toNat < 2 ^ width) :
    fieldRead new shift width = value := by
  apply BitVec.eq_of_getLsbD_eq
  intro i hi
  rw [getLsbD_fieldRead, hf (shift + i)]
  by_cases hw : i < width
  · simp [hi, hw]
  · have hhigh : value.getLsbD i = false :=
      Nat.testBit_lt_two_pow (Nat.lt_of_lt_of_le hv (Nat.pow_le_pow_right (by decide) (Nat.not_lt.mp hw)))
    simp [hw, hhigh]

end Sys2Proof.Machine
end

section
/-! CERTIFICATES. The scalar register commands of 40_scalar_register.md. -/

namespace Sys2Proof.Proofs

open Sys2Proof.Machine

/-- Settles O11: past the index check NEWZ is one cache write. -/
theorem newzZeroesTheCache : Obligations.NewzZeroesTheCache := by
  intro s c h hr hlen
  rw [exec_newz hr]
  refine ⟨fun hh => withHandle_outOfRange hr hh _, fun hh => ?_⟩
  obtain ⟨d, hd⟩ := exists_handle hh
  rw [withHandle_some hd]
  exact complete_setCache_spec hr (hlen ▸ hh) 0 none

/-- Settles O13: the three checks of SETV in order, then one cache write. -/
theorem setvWritesTheCache : Obligations.SetvWritesTheCache := by
  intro s c h hr hlen
  rw [exec_setv hr]
  refine ⟨fun hh => withHandle_outOfRange hr hh _, fun hh hv => withCache_unconstructed hr hh hv _, ?_, ?_⟩
  · intro d hd hv hwide
    obtain ⟨v, hv⟩ := Option.isSome_iff_exists.mp hv
    rw [withCache_constructed hr hd hv]
    exact check_fits_tooWide hr hwide _
  · intro d hd hv hfits
    obtain ⟨v, hv⟩ := Option.isSome_iff_exists.mp hv
    rw [withCache_constructed hr hd hv, check_fits hfits]
    exact complete_setCache_spec hr (hlen ▸ lt_nh_of_handle hd) c.wdata none

/-- Settles O15: the two checks of FETCH, then one hardware read whose value replaces the cached one. -/
theorem fetchReadsOnce : Obligations.FetchReadsOnce := by
  intro s c h hr hlen
  rw [exec_fetch hr]
  refine ⟨fun hh => withHandle_outOfRange hr hh _, fun hh hv => withCache_unconstructed hr hh hv _, ?_⟩
  intro d hd hv
  obtain ⟨v, hv⟩ := Option.isSome_iff_exists.mp hv
  rw [withCache_constructed hr hd hv]
  exact complete_hwRead_spec hr (hlen ▸ lt_nh_of_handle hd) (handle_wf hr.wf hd)

/-- Settles O17: the two checks of GETV, then a completion that writes nothing. -/
theorem getvReturnsTheCache : Obligations.GetvReturnsTheCache := by
  intro s c h hr
  rw [exec_getv hr]
  refine ⟨fun hh => withHandle_outOfRange hr hh _, fun hh hv => withCache_unconstructed hr hh hv _, ?_⟩
  intro v hh hv
  obtain ⟨d, hd⟩ := exists_handle hh
  rw [withCache_constructed hr hd hv]
  exact complete_spec hr (some v)

/-- Settles O23: the core SETBITS leaves is ready for GETBITS, which reads back the field SETBITS replaced. -/
theorem bitFieldIsolation : Obligations.BitFieldIsolation := by
  intro s c h shift width d v hr hd hlen hv hold hg
  rw [exec_setbits_constructed hr hd hv hg]
  refine ⟨fun hfits => ?_, fun hwide => check_fits_tooWide hr hwide _⟩
  have hfield := fieldReplaced_fieldWritten (handle_wf hr.wf hd) hold hg hfits
  obtain ⟨t, t', hset, ht, -, htcache, -, -⟩ :=
    complete_setCache_spec hr (hlen ▸ lt_nh_of_handle hd) (fieldWritten d v shift width c.wdata) none
  have hrt : Ready t t' := ht.ready hr
  obtain ⟨u, u', hget, hu, -, hucaches, hurdata⟩ :=
    complete_spec hrt (some (fieldRead (fieldWritten d v shift width c.wdata) shift width))
  refine ⟨t, u, t', u', _, (check_fits hfits _).trans hset, ?_, ht.core, hu.core, ?_, htcache, ?_, fun i hi => ?_⟩
  · rw [exec_getbits_constructed hrt (ht.machine.cfg ▸ hd) htcache hg, hget]
  · rw [hurdata, fieldRead_of_fieldReplaced hfield hfits]
  · rw [← htcache, Core.cache, hucaches, Core.cache]
  · rw [hfield i, if_neg (by omega)]

end Sys2Proof.Proofs
end

section
/-! SUPPORT. The command words field by field: how the decoder reads each opcode, what the encoder puts in each
field, and the rows of the opcode map as conditions on two fields. -/

namespace Sys2Proof

open Sys2Proof.Laws.EncodedOpcode (opcode_lt operandBits_lt)

/-! ### The decoder and the encoder -/

theorem bitField_eq (v hi lo : Nat) : bitField v hi lo = v / 2 ^ lo % 2 ^ (hi - lo + 1) := by
  rw [bitField, Nat.shiftRight_eq_div_pow]

theorem ifZero_eq_ok {mbz op : Nat} {i j : Instr} : ifZero mbz op i = .ok j ↔ mbz = 0 ∧ i = j := by
  unfold ifZero
  split <;> simp [*]

/-- The word of a well-formed command is its opcode above its operand bits (R60, R71). -/
theorem encode_toNat {i : Instr} (h : i.wf = true) : (encode i).toNat = i.opcode * 2 ^ 24 + i.operandBits := by
  have hop := opcode_lt i
  have hlow := operandBits_lt h
  rw [encode, BitVec.toNat_ofNat]
  omega

/-- A word made of a well-formed command's opcode and operand bits decodes to it, field by field (R61 to R66). -/
theorem decode_of_toNat_eq {w : CmdWord} {i : Instr} (h : i.wf = true)
    (hw : w.toNat = i.opcode * 2 ^ 24 + i.operandBits) : decode w = .ok i := by
  have hlow := operandBits_lt h
  have hop : w.toNat / 16777216 % 256 = i.opcode := by have := opcode_lt i; omega
  cases i <;>
    simp only [Instr.opcode, Instr.operandBits, Instr.wf, indexFits, sevenBitFits, pinFits, Bool.and_eq_true,
      decide_eq_true_eq] at hop hw h <;>
    simp [decode, bitField_eq, ifZero_eq_ok, hop] <;>
    omega

/-- A word that decodes is the opcode and the operand bits of the command, which is well formed (R61 to R66). -/
theorem toNat_eq_of_decode {w : CmdWord} {i : Instr} (h : decode w = .ok i) :
    i.wf = true ∧ w.toNat = i.opcode * 2 ^ 24 + i.operandBits := by
  have hword : w.toNat < 4294967296 := w.isLt
  simp only [decode, bitField_eq, Nat.reducePow, Nat.reduceSub, Nat.reduceAdd] at h
  generalize hop : w.toNat / 16777216 % 256 = op at h
  split at h
  case h_18 => cases h
  case h_12 | h_13 =>
    obtain rfl := Except.ok.inj h
    simp only [Instr.opcode, Instr.operandBits, Instr.wf, indexFits, pinFits, Bool.and_eq_true, decide_eq_true_eq]
    omega
  all_goals
    obtain ⟨hzero, rfl⟩ := ifZero_eq_ok.mp h
    simp only [Instr.opcode, Instr.operandBits, Instr.wf, indexFits, sevenBitFits, Bool.and_eq_true,
      decide_eq_true_eq, true_and]
    omega

/-! ### The opcode map -/

/-- The must-be-zero field of a command's format (R61 to R65): its lowest bit and its length. -/
def Instr.zeroField : Instr → Nat × Nat
  | .newz _ | .newv _ | .newf _ | .getv _ | .setv _ | .fetch _ | .store _ => (0, 16)
  | .getbits _ _ _ | .setbits _ _ _ => (14, 2)
  | .getbit _ _ | .setbit _ _ => (7, 9)
  | .pfetch _ _ | .pstore _ _ => (0, 0)
  | .initexc | .getcid | .halt | .poweroff => (0, 24)

/-- The row of the opcode map a command belongs to (R66). -/
def Instr.row (i : Instr) : OpcodeRow where
  mnemonic := i.mnemonic
  matchBits :=
    match i with
    | .newz _ => 0x01000000
    | .newv _ => 0x02000000
    | .newf _ => 0x03000000
    | .getv _ => 0x04000000
    | .setv _ => 0x05000000
    | .fetch _ => 0x06000000
    | .store _ => 0x07000000
    | .getbits _ _ _ => 0x08000000
    | .setbits _ _ _ => 0x09000000
    | .getbit _ _ => 0x0A000000
    | .setbit _ _ => 0x0B000000
    | .pfetch _ _ => 0x10000000
    | .pstore _ _ => 0x11000000
    | .initexc => 0x20000000
    | .getcid => 0x21000000
    | .halt => 0x22000000
    | .poweroff => 0x23000000
  mask :=
    match i with
    | .newz _ | .newv _ | .newf _ | .getv _ | .setv _ | .fetch _ | .store _ => 0xFF00FFFF
    | .getbits _ _ _ | .setbits _ _ _ => 0xFF00C000
    | .getbit _ _ | .setbit _ _ => 0xFF00FF80
    | .pfetch _ _ | .pstore _ _ => 0xFF000000
    | .initexc | .getcid | .halt | .poweroff => 0xFFFFFFFF

/-- A row matches the opcode of its commands. -/
theorem row_matchBits_toNat (i : Instr) : i.row.matchBits.toNat = i.opcode * 2 ^ 24 := by
  generalize hbits : i.row.matchBits = bits
  generalize hop : i.opcode = op
  cases i <;> simp only [Instr.row, Instr.opcode] at hbits hop <;> subst hbits hop <;> rfl

/-- A row looks at the opcode and at the must-be-zero field of its commands. -/
theorem row_mask_toNat (i : Instr) :
    i.row.mask.toNat = 255 * 2 ^ 24 + (2 ^ i.zeroField.2 - 1) <<< i.zeroField.1 := by
  generalize hmask : i.row.mask = mask
  generalize hfield : i.zeroField = field
  cases i <;> simp only [Instr.row, Instr.zeroField] at hmask hfield <;> subst hmask hfield <;> rfl

theorem row_mem_opcodeMap (i : Instr) : i.row ∈ opcodeMap := by
  cases i <;> simp [opcodeMap, Instr.row, Instr.mnemonic]

/-- Every row of the map is the row of a command. -/
theorem exists_row_eq {r : OpcodeRow} (hr : r ∈ opcodeMap) : ∃ i : Instr, i.row = r := by
  simp only [opcodeMap, List.mem_cons, List.not_mem_nil, or_false] at hr
  rcases hr with rfl | rfl | rfl | rfl | rfl | rfl | rfl | rfl | rfl | rfl | rfl | rfl | rfl | rfl | rfl | rfl | rfl
  exacts [⟨.newz 0, rfl⟩, ⟨.newv 0, rfl⟩, ⟨.newf 0, rfl⟩, ⟨.getv 0, rfl⟩, ⟨.setv 0, rfl⟩, ⟨.fetch 0, rfl⟩,
    ⟨.store 0, rfl⟩, ⟨.getbits 0 0 0, rfl⟩, ⟨.setbits 0 0 0, rfl⟩, ⟨.getbit 0 0, rfl⟩, ⟨.setbit 0 0, rfl⟩,
    ⟨.pfetch 0 0, rfl⟩, ⟨.pstore 0 0, rfl⟩, ⟨.initexc, rfl⟩, ⟨.getcid, rfl⟩, ⟨.halt, rfl⟩, ⟨.poweroff, rfl⟩]

/-- A mnemonic names one row of the map. -/
theorem row_eq_of_mnemonic_eq {i : Instr} {r : OpcodeRow} (hr : r ∈ opcodeMap) (h : i.mnemonic = r.mnemonic) :
    i.row = r :=
  List.inj_on_of_nodup_map (f := OpcodeRow.mnemonic) (by simp [opcodeMap]) (row_mem_opcodeMap i) hr h

/-- The bits of a field are all zero exactly when its mask finds none of them. -/
theorem and_fieldMask_eq_zero (v lo len : Nat) :
    v &&& (2 ^ len - 1) <<< lo = 0 ↔ v / 2 ^ lo % 2 ^ len = 0 := by
  have hmask : v &&& (2 ^ len - 1) <<< lo = (v / 2 ^ lo % 2 ^ len) <<< lo := by
    apply Nat.eq_of_testBit_eq
    intro i
    by_cases hi : lo ≤ i
    · simp [Nat.testBit_div_two_pow, hi, Bool.and_comm]
    · simp [hi]
  rw [hmask, Nat.shiftLeft_eq_zero_iff]

theorem zeroField_mask_lt (i : Instr) : (2 ^ i.zeroField.2 - 1) <<< i.zeroField.1 < 2 ^ 24 := by
  cases i <;> simp [Instr.zeroField]

/-- A row covers a word whose opcode is the row's and whose must-be-zero field is zero (R66). -/
theorem row_covers_iff (i : Instr) (w : CmdWord) :
    i.row.covers w = true ↔
      w.toNat / 2 ^ 24 = i.opcode ∧ w.toNat / 2 ^ i.zeroField.1 % 2 ^ i.zeroField.2 = 0 := by
  have hop := opcode_lt i
  have hlt := zeroField_mask_lt i
  have hword := w.isLt
  simp only [OpcodeRow.covers, beq_iff_eq, ← BitVec.toNat_inj, BitVec.toNat_and, row_matchBits_toNat,
    row_mask_toNat, ← and_fieldMask_eq_zero]
  generalize (2 ^ i.zeroField.2 - 1) <<< i.zeroField.1 = m at *
  have hhigh : (w.toNat &&& (255 * 2 ^ 24 + m)) / 2 ^ 24 = w.toNat / 2 ^ 24 := by
    have hones : (255 * 2 ^ 24 + m) / 2 ^ 24 = 255 := by omega
    rw [Nat.and_div_two_pow, hones, show 255 = 2 ^ 8 - 1 from rfl, Nat.and_two_pow_sub_one_eq_mod]
    omega
  have hlow : (w.toNat &&& (255 * 2 ^ 24 + m)) % 2 ^ 24 = w.toNat &&& m := by
    rw [← Nat.mod_eq_of_lt (Nat.lt_of_le_of_lt (Nat.and_le_right (n := w.toNat)) hlt), Nat.and_mod_two_pow,
      Nat.and_mod_two_pow, Nat.mul_add_mod_self_right]
  omega

/-- A word that decodes is covered by the row of its command. -/
theorem row_covers_of_decode {w : CmdWord} {i : Instr} (h : decode w = .ok i) : i.row.covers w = true := by
  obtain ⟨hwf, hw⟩ := toNat_eq_of_decode h
  have hlow := operandBits_lt hwf
  refine (row_covers_iff i w).mpr ⟨by omega, ?_⟩
  cases i <;>
    simp only [Instr.opcode, Instr.operandBits, Instr.zeroField, Instr.wf, indexFits, sevenBitFits, pinFits,
      Bool.and_eq_true, decide_eq_true_eq] at hw hwf ⊢ <;>
    omega

/-- A covered word decodes to a command of the row. -/
theorem decode_of_row_covers {w : CmdWord} {i : Instr} (h : i.row.covers w = true) :
    ∃ j, decode w = .ok j ∧ j.mnemonic = i.mnemonic := by
  have hword : w.toNat < 4294967296 := w.isLt
  obtain ⟨hop, hzero⟩ := (row_covers_iff i w).mp h
  have hop' : w.toNat / 16777216 % 256 = i.opcode := by omega
  cases i <;>
    simp only [Instr.opcode, Instr.zeroField, Nat.reducePow, Nat.div_one] at hop' hzero <;>
    simp only [decode, bitField_eq, Nat.reducePow, Nat.reduceSub, Nat.reduceAdd, Nat.div_one, hop', hzero, ifZero,
      if_true] <;>
    exact ⟨_, rfl, rfl⟩

end Sys2Proof
end

section
/-! CERTIFICATES. The encoding of 30_encoding.md. -/

namespace Sys2Proof.Proofs

/-- Settles O1: the decoder reads back each field the encoder wrote. -/
theorem decodeOfEncodeIsTheCommand : Obligations.DecodeOfEncodeIsTheCommand :=
  fun _ h => decode_of_toNat_eq h (encode_toNat h)

/-- Settles O2: a legal word is the sum its command's encoding writes. -/
theorem encodeOfDecodeIsTheWord : Obligations.EncodeOfDecodeIsTheWord := by
  intro w i h
  obtain ⟨hwf, hw⟩ := toNat_eq_of_decode h
  exact ⟨hwf, BitVec.eq_of_toNat_eq ((encode_toNat hwf).trans hw.symm)⟩

/-- Settles O3: a row is the opcode and the must-be-zero field of the commands with its mnemonic. -/
theorem opcodeMapDecidesEveryWord : Obligations.OpcodeMapDecidesEveryWord := by
  intro w r hr
  obtain ⟨i, rfl⟩ := exists_row_eq hr
  refine ⟨decode_of_row_covers, ?_⟩
  rintro ⟨j, hj, hname⟩
  rw [← row_eq_of_mnemonic_eq hr hname]
  exact row_covers_of_decode hj

/-- Settles O4 by evaluating the decoder on each word. -/
theorem wordsOfTheTestVectorsDecode : Obligations.WordsOfTheTestVectorsDecode := by
  refine ⟨?_, ?_, ?_, ?_, ?_, ?_⟩ <;> decide

end Sys2Proof.Proofs
end

section
/-! SUPPORT. What a command can do, said once: it raises the first of its checks to fail, is refused its store into
the vector table, completes, halts the core or asks for the exit (30_encoding.md R73, 60_exceptions.md R130, R131,
R150); and from there what a command that answers a next state leaves as it was. -/

namespace Sys2Proof.Machine

/-! ### The remaining commands on a ready core -/

section Commands

variable {s : State} {c : Core}

theorem exec_newv (hr : Ready s c) (h : Nat) :
    exec (.newv h) s = withHandle h s fun d =>
      check (fits c.wdata d.width) .valueRange s <| complete none (s.setCache h c.wdata) := by
  rw [← State.core_eq hr.core]
  exact issue_of_ready hr _

theorem exec_newf (hr : Ready s c) (h : Nat) :
    exec (.newf h) s = withHandle h s fun d =>
      complete (some (hwRead d s).1) ((hwRead d s).2.setCache h (hwRead d s).1) :=
  issue_of_ready hr _

theorem exec_store (hr : Ready s c) (h : Nat) :
    exec (.store h) s = withHandle h s fun d => withCache h s fun v =>
      check (d.loc != .sysreg .coreid) .readOnly s <| completeWrite (hwWrite d v s) :=
  issue_of_ready hr _

theorem exec_getbit (hr : Ready s c) (h bit : Nat) :
    exec (.getbit h bit) s = withHandle h s fun d => withCache h s fun v =>
      check (bit < d.width) .fieldGeometry s <| complete (some (fieldRead v bit 1)) s :=
  issue_of_ready hr _

theorem exec_setbit (hr : Ready s c) (h bit : Nat) :
    exec (.setbit h bit) s = withHandle h s fun d => withCache h s fun v =>
      check (bit < d.width) .fieldGeometry s <| check (fits c.wdata 1) .valueRange s <|
        complete none (s.setCache h (fieldWritten d v bit 1 c.wdata)) := by
  rw [← State.core_eq hr.core]
  exact issue_of_ready hr _

theorem exec_pfetch (hr : Ready s c) (a pin : Nat) :
    exec (.pfetch a pin) s = withArray a s fun p => check (pin < p.maxPins) .pinRange s <|
      complete (some (fieldRead (memRead (wordAddr p pin) 4 s).1 (bitOffset p pin) p.sz))
        (memRead (wordAddr p pin) 4 s).2 :=
  issue_of_ready hr _

theorem exec_pstore (hr : Ready s c) (a pin : Nat) :
    exec (.pstore a pin) s = withArray a s fun p => check (pin < p.maxPins) .pinRange s <|
      check (fits c.wdata p.sz) .valueRange s <|
        completeWrite (memWrite (wordAddr p pin) 4
          (BitVec.ofNat 64 (insertField 32 (memRead (wordAddr p pin) 4 s).1.toNat (bitOffset p pin) p.sz
            c.wdata.toNat))
          (memRead (wordAddr p pin) 4 s).2) := by
  rw [← State.core_eq hr.core]
  exact issue_of_ready hr _

theorem exec_getcid (hr : Ready s c) :
    exec .getcid s = complete (some (coreIdField s.cfg (s.cfg.coreidRaw.getD s.cur 0)))
      (s.logAccess (.sys .read .coreid (s.cfg.coreidRaw.getD s.cur 0))) :=
  issue_of_ready hr _

theorem exec_halt (hr : Ready s c) :
    exec .halt s = .next { s with cores := s.cores.set s.cur { c with run := .halted } } := by
  rw [← State.onCore_eq_set (fun k => { k with run := .halted }) hr.core]
  exact issue_of_ready hr _

/-- The core after INITEXC, but for RDATA and STATUS (R110). -/
def Core.armed (cfg : Config) (c : Core) : Core :=
  let route : List Access := [.sys .read .trapctl c.trapctl, .sys .write .trapctl (c.trapctl ||| 0x40E),
    .sys .write .spsel 1]
  { c with
    vbar := cfg.vtBase, vbarWritten := true, mask := 0,
    trapctl := if cfg.initRouting then c.trapctl ||| 0x40E else c.trapctl,
    spsel := if cfg.initRouting then 1 else c.spsel,
    accesses := c.accesses ++ [.sys .write .vbar cfg.vtBase] ++ (if cfg.initRouting then route else [])
      ++ [.sys .read .mask c.maskValue, .sys .write .mask 0] }

theorem exec_initexc (hr : Ready s c) : exec .initexc s = complete none (s.onCore (Core.armed s.cfg)) := by
  refine (issue_of_ready hr _).trans (congrArg (complete none) ?_)
  have hinstall : sysWrite .vbar s.cfg.vtBase s = s.onCore fun k =>
      { k with vbar := s.cfg.vtBase, vbarWritten := true,
               accesses := k.accesses ++ [.sys .write .vbar s.cfg.vtBase] } := by
    simp [sysWrite, Core.withSys]
  have hcore : ∀ f : Core → Core, (s.onCore f).cores[(s.onCore f).cur]? = some (f c) := fun f => by
    simp [hr.core]
  cases hroute : s.cfg.initRouting
  · simp only [Bool.false_eq_true, if_false, hinstall]
    rw [unmaskAll_spec (hcore _), State.onCore_onCore, State.onCore_eq_set _ hr.core, State.onCore_eq_set _ hr.core]
    simp [Core.armed, hroute, Core.maskValue]
  · simp only [if_true, hinstall]
    rw [initRouting_spec (hcore _), State.onCore_onCore, unmaskAll_spec (hcore _), State.onCore_onCore,
      State.onCore_eq_set _ hr.core, State.onCore_eq_set _ hr.core]
    simp [Core.armed, hroute, Core.maskValue]

/-- POWEROFF pulses EXITREQ once with the host's answer; the machine is TERMINATED or the core HALTED by it (R113). -/
theorem exec_poweroff (hr : Ready s c) :
    ∃ honoured honours drawn,
      exec .poweroff s = .next { s with
        terminated := honoured, honours := honours, drawn := drawn,
        cores := s.cores.set s.cur { c with
          exitReqs := c.exitReqs ++ [honoured], run := if honoured then .running else .halted } } ∧
      ∀ b rest, s.honours = b :: rest → honoured = b ∧ honours = rest := by
  obtain ⟨honoured, honours, drawn, hanswer, hscript⟩ := hostAnswer_spec s
  refine ⟨honoured, honours, drawn, ?_, fun b rest hb => ?_⟩
  · refine (issue_of_ready hr _).trans ?_
    rw [hanswer]
    have hset := fun f => State.onCore_eq_set (s := { s with honours := honours, drawn := drawn }) f hr.core
    cases honoured
    · simp only [Bool.false_eq_true, if_false, State.onCore_onCore]
      rw [hset, hr.live]
    · simp only [if_true, hset, hr.running]
  · obtain ⟨hb, hrest, -⟩ := hscript b rest hb
    exact ⟨hb, hrest⟩

end Commands

end Sys2Proof.Machine
end

section
/-! SUPPORT. The outcome of a command: the first failing check, the refused store, or completion with the frame of
R150. -/

namespace Sys2Proof.Machine

/-! ### The frame of a completing command -/

/-- The caches `k` has after command `i` on a core with caches of `c`: as many, all as before where `i` names no
handle, and each one that changed within its register's width (10_state.md R24). -/
structure CachesWithin (i : Instr) (cfg : Config) (c k : Core) : Prop where
  length : k.caches.length = c.caches.length
  indexless : handleIndex i = none → k.caches = c.caches
  width : ∀ h d v, cfg.ht[h]? = some d → k.cache h = some v → c.cache h = some v ∨ v.toNat < 2 ^ d.width

theorem cachesWithin_of_eq (i : Instr) (cfg : Config) {c k : Core} (h : k.caches = c.caches) :
    CachesWithin i cfg c k where
  length := by rw [h]
  indexless _ := h
  width _ _ _ _ hv := .inl (by rw [← hv, Core.cache, Core.cache, h])

/-- Writing one cache with a value of its register's width. -/
theorem cachesWithin_set {i : Instr} {cfg : Config} {c k : Core} {h : Nat} {d : Handle} {v : Word}
    (hi : handleIndex i = some h) (hd : cfg.ht[h]? = some d) (hv : v.toNat < 2 ^ d.width)
    (hk : k.caches = c.caches.set h (some v)) : CachesWithin i cfg c k where
  length := by rw [hk, List.length_set]
  indexless hn := by rw [hi] at hn; cases hn
  width j e w he hw := by
    simp only [Core.cache, hk, List.getElem?_set] at hw
    by_cases hj : h = j
    · subst hj
      obtain rfl : d = e := Option.some.inj (hd.symm.trans he)
      rw [if_pos rfl] at hw
      split at hw
      · cases hw
        exact .inr hv
      · cases hw
    · rw [if_neg hj] at hw
      exact .inl hw

/-- The storage `m` command `i` leaves: written at the location it stores to, untouched where it stores nowhere
(20_memory.md R46). -/
structure StoreWithin (i : Instr) (s : State) (m : Memory) : Prop where
  none : storeTarget i s = none → m = s.mem
  some : ∀ a n, storeTarget i s = some (a, n) → m = s.mem ∨ ∃ v, m = Memory.writeLE s.mem a.toNat n v

theorem storeWithin_mem (i : Instr) (s : State) : StoreWithin i s s.mem := ⟨fun _ => rfl, fun _ _ _ => .inl rfl⟩

theorem storeWithin_writeLE {i : Instr} {s : State} {a : Word} {n : Nat} (h : storeTarget i s = some (a, n)) (v : Nat) :
    StoreWithin i s (Memory.writeLE s.mem a.toNat n v) where
  none hn := by rw [h] at hn; cases hn
  some b m hb := by rw [h] at hb; cases hb; exact .inr ⟨v, rfl⟩

/-- The core `k` and the storage `m` that command `i` on core `c` has when it completes, but for RDATA and STATUS. -/
structure BodyFrame (i : Instr) (s : State) (c : Core) (m : Memory) (k : Core) : Prop where
  run : k.run = c.run
  registers : SameRegisters c k
  ports : SamePorts c k
  caches : CachesWithin i s.cfg c k
  sys : writesSys i s = false → SameSys c k
  accesses : c.accesses <+: k.accesses
  store : StoreWithin i s m

/-- A command that changes caches and the access history alone. -/
theorem bodyFrame_caches {i : Instr} {s : State} {c : Core} {m : Memory} {caches : List (Option Word)}
    {accesses : List Access} (hc : CachesWithin i s.cfg c { c with caches := caches, accesses := accesses })
    (ha : c.accesses <+: accesses) (hm : StoreWithin i s m) :
    BodyFrame i s c m { c with caches := caches, accesses := accesses } where
  run := rfl
  registers := ⟨rfl, rfl, rfl, rfl, rfl, rfl, rfl, rfl⟩
  ports := ⟨rfl, rfl, rfl, rfl, rfl, rfl, rfl⟩
  caches := hc
  sys _ := ⟨rfl, rfl, rfl, rfl, rfl, rfl, rfl, rfl⟩
  accesses := ha
  store := hm

/-- A command that changes one cache, and reads its register at most. -/
theorem bodyFrame_setCache {i : Instr} {s : State} {c : Core} {h : Nat} {d : Handle} {v : Word}
    (hi : handleIndex i = some h) (hd : s.cfg.ht[h]? = some d) (hv : v.toNat < 2 ^ d.width)
    {accesses : List Access} (ha : c.accesses <+: accesses) :
    BodyFrame i s c s.mem { c with caches := c.caches.set h (some v), accesses := accesses } :=
  bodyFrame_caches (cachesWithin_set hi hd hv rfl) ha (storeWithin_mem i s)

/-- A command that changes the access history and the storage at most. -/
theorem bodyFrame_accesses {i : Instr} {s : State} {c : Core} {m : Memory} {accesses : List Access}
    (ha : c.accesses <+: accesses) (hm : StoreWithin i s m) :
    BodyFrame i s c m { c with accesses := accesses } :=
  bodyFrame_caches (cachesWithin_of_eq i s.cfg rfl) ha hm

/-- A command that writes system registers. -/
theorem bodyFrame_withSys {i : Instr} {s : State} (c : Core) (hi : writesSys i s = true) (r : SysReg) (v : Word) :
    BodyFrame i s c s.mem (Core.withSys { c with accesses := c.accesses ++ [.sys .write r v] } r v) where
  run := by simp
  registers := by constructor <;> simp
  ports := by constructor <;> simp
  caches := cachesWithin_of_eq i s.cfg (by simp)
  sys hn := by rw [hi] at hn; cases hn
  accesses := by simp
  store := storeWithin_mem i s

theorem bodyFrame_armed (s : State) (c : Core) : BodyFrame .initexc s c s.mem (c.armed s.cfg) where
  run := rfl
  registers := ⟨rfl, rfl, rfl, rfl, rfl, rfl, rfl, rfl⟩
  ports := ⟨rfl, rfl, rfl, rfl, rfl, rfl, rfl⟩
  caches := cachesWithin_of_eq _ s.cfg rfl
  sys hn := by cases hn
  accesses := by simp [Core.armed]
  store := storeWithin_mem _ s

/-! ### Completion -/

/-- STATUS OK, and RDATA as the command's rule gives it (R26). -/
def Core.replied (k : Core) (rdata : Option Word) : Core := { k with rdata := rdata, status := some .ok }

/-- Completing puts the reply on the core the command's body left. -/
theorem complete_onCore {s : State} {c : Core} (hc : s.cores[s.cur]? = some c) (rdata : Option Word)
    (f : Core → Core) :
    complete rdata (s.onCore f) = .next { s with cores := s.cores.set s.cur ((f c).replied rdata) } := by
  rw [complete_eq, State.onCore_onCore, State.onCore_eq_set _ hc]
  rfl

/-- What a completed command leaves (R150), whatever it did to storage and to the environment's answers. -/
theorem completed_replied {s : State} {c k : Core} (hr : Ready s c) (hrun : k.run = c.run)
    (hregs : SameRegisters c k) (hports : SamePorts c k) (rdata : Option Word) (mem : Memory) (answers : List Word)
    (drawn : Nat) :
    Completed s { s with mem := mem, answers := answers, drawn := drawn,
                         cores := s.cores.set s.cur (k.replied rdata) } c (k.replied rdata) where
  core := List.getElem?_set_self (List.getElem?_eq_some_iff.mp hr.core).1
  status := rfl
  run := hrun.trans hr.running
  machine := ⟨rfl, rfl, rfl, rfl, rfl, fun _ hj => List.getElem?_set_ne hj.symm⟩
  registers := { hregs with }
  ports := { hports with }

/-- The same for a command that changes the access history alone. -/
theorem completed_accesses {s : State} {c : Core} (hr : Ready s c) (accesses : List Access) (rdata : Option Word)
    (mem : Memory) (answers : List Word) (drawn : Nat) :
    Completed s { s with mem := mem, answers := answers, drawn := drawn,
                         cores := s.cores.set s.cur (Core.replied { c with accesses := accesses } rdata) }
      c (Core.replied { c with accesses := accesses } rdata) :=
  completed_replied (k := { c with accesses := accesses }) hr rfl ⟨rfl, rfl, rfl, rfl, rfl, rfl, rfl, rfl⟩
    ⟨rfl, rfl, rfl, rfl, rfl, rfl, rfl⟩ rdata mem answers drawn

theorem sameSys_accesses (c : Core) (accesses : List Access) (rdata : Option Word) :
    SameSys c (Core.replied { c with accesses := accesses } rdata) :=
  ⟨rfl, rfl, rfl, rfl, rfl, rfl, rfl, rfl⟩

/-- Completing without a change of the core's body puts the reply on it. -/
theorem complete_eq_set {s : State} {c : Core} (hc : s.cores[s.cur]? = some c) (rdata : Option Word) :
    complete rdata s = .next { s with cores := s.cores.set s.cur (c.replied rdata) } := by
  rw [complete_eq, State.onCore_eq_set _ hc]
  rfl

/-! ### Accesses of the bus and of the system registers -/

/-- The environment's answer is the one R44 and R45 allow, and uses up no more than it says. -/
theorem busAnswer_answered (s : State) (addr : Word) {n : Nat} (hn : n ≤ 8) :
    ∃ v answers drawn, s.busAnswer addr n = (v, { s with answers := answers, drawn := drawn }) ∧
      ∀ t : State, t.answers = answers → t.drawn = drawn → BusAnswered s t addr n v := by
  unfold State.busAnswer
  split
  · rename_i m hm
    have hlt := Memory.readLE_lt n hm
    have hle : 2 ^ (8 * n) ≤ 2 ^ 64 := Nat.pow_le_pow_right (by decide) (by omega)
    refine ⟨_, _, _, rfl, fun t ha hd => ⟨?_, fun m' hm' => ?_, fun a rest hnone => ?_⟩⟩
    · rw [BitVec.toNat_ofNat, Nat.mod_eq_of_lt (by omega)]
      exact hlt
    · rw [hm] at hm'
      cases hm'
      exact ⟨rfl, ha, hd⟩
    · rw [hm] at hnone
      cases hnone
  · rename_i hnone
    split
    · rename_i a rest hscript
      refine ⟨_, _, _, rfl, fun t ha hd => ⟨lowBytes_lt n hn a, fun m hm => ?_, fun b rest' _ hb => ?_⟩⟩
      · rw [hnone] at hm
        cases hm
      · rw [hscript] at hb
        cases hb
        exact ⟨rfl, ha, hd⟩
    · rename_i hscript
      refine ⟨_, _, _, rfl, fun t _ _ => ⟨lowBytes_lt n hn _, fun m hm => ?_, fun b rest' _ hb => ?_⟩⟩
      · rw [hnone] at hm
        cases hm
      · rw [hscript] at hb
        cases hb

/-- A bus read is one access with the environment's answer (R44, R45). -/
theorem memRead_answered (s : State) (addr : Word) {n : Nat} (hn : n ≤ 8) :
    ∃ v answers drawn,
      memRead addr n s = (v, ({ s with answers := answers, drawn := drawn } : State).onCore fun k =>
        { k with accesses := k.accesses ++ [.bus .read addr n v] }) ∧
      ∀ t : State, t.answers = answers → t.drawn = drawn → BusAnswered s t addr n v := by
  obtain ⟨v, answers, drawn, h, hanswered⟩ := busAnswer_answered s addr hn
  exact ⟨v, answers, drawn, by simp [memRead, h], hanswered⟩

/-- What reading register `d` in state `s` gives and logs, the environment's answers left at `answers` and `drawn`
(40_scalar_register.md R80). -/
structure ReadOf (s : State) (d : Handle) (v : Word) (access : Access) (answers : List Word) (drawn : Nat) : Prop where
  width : v.toNat < 2 ^ d.width
  bus : ∀ addr, d.loc = .mmio addr → access = .bus .read addr (d.width / 8) v ∧
    ∀ t : State, t.answers = answers → t.drawn = drawn → BusAnswered s t addr (d.width / 8) v
  sys : ∀ r, d.loc = .sysreg r →
    access = .sys .read r v ∧ v = s.sysValue r ∧ answers = s.answers ∧ drawn = s.drawn

theorem width_eq_of_mmio {d : Handle} (hd : d.wf = true) {addr : Word} (hl : d.loc = .mmio addr) :
    8 * (d.width / 8) = d.width ∧ d.width ≤ 64 := by
  rw [Handle.wf, hl] at hd
  simp at hd
  omega

theorem width_eq_of_sysreg {d : Handle} (hd : d.wf = true) {r : SysReg} (hl : d.loc = .sysreg r) : d.width = 64 := by
  simpa [Handle.wf, hl] using hd

theorem hwRead_readOf (s : State) {d : Handle} (hd : d.wf = true) :
    ∃ v access answers drawn,
      hwRead d s = (v, ({ s with answers := answers, drawn := drawn } : State).onCore fun k =>
        { k with accesses := k.accesses ++ [access] }) ∧
      ReadOf s d v access answers drawn := by
  unfold hwRead
  split
  · rename_i addr hl
    obtain ⟨hbytes, hle⟩ := width_eq_of_mmio hd hl
    obtain ⟨v, answers, drawn, hread, hanswered⟩ := memRead_answered s addr (n := d.width / 8) (by omega)
    refine ⟨v, _, answers, drawn, hread, ?_, fun a ha => ?_, fun r hr => ?_⟩
    · simpa [hbytes] using (hanswered { s with answers := answers, drawn := drawn } rfl rfl).fits
    · rw [hl] at ha
      cases ha
      exact ⟨rfl, hanswered⟩
    · rw [hl] at hr
      cases hr
  · rename_i r hl
    refine ⟨_, _, s.answers, s.drawn, rfl, ?_, fun a ha => ?_, fun q hq => ?_⟩
    · rw [width_eq_of_sysreg hd hl]
      exact (s.sysValue r).isLt
    · rw [hl] at ha
      cases ha
    · rw [hl] at hq
      cases hq
      exact ⟨rfl, rfl, rfl, rfl⟩

/-- Reading a register into its cache: the state it answers (R83, R86). -/
theorem complete_hwRead_eq {s : State} {c : Core} (hr : Ready s c) (h : Nat) {d : Handle} (hd : d.wf = true) :
    ∃ v access answers drawn,
      complete (some (hwRead d s).1) ((hwRead d s).2.setCache h (hwRead d s).1)
        = .next { s with
            answers := answers, drawn := drawn,
            cores := s.cores.set s.cur
              (Core.replied { c with caches := c.caches.set h (some v), accesses := c.accesses ++ [access] }
                (some v)) } ∧
      ReadOf s d v access answers drawn := by
  obtain ⟨v, access, answers, drawn, hread, hof⟩ := hwRead_readOf s hd
  refine ⟨v, access, answers, drawn, ?_, hof⟩
  simp only [hread, State.onCore_onCore]
  exact complete_onCore (s := { s with answers := answers, drawn := drawn }) hr.core (some v) _

/-- A bus write in the vector table is refused; any other completes, with its bytes in the storage (R46, R51). -/
theorem completeWrite_memWrite {s : State} {c : Core} (hc : s.cores[s.cur]? = some c) (addr : Word) (n : Nat)
    (v : Word) :
    completeWrite (memWrite addr n v s)
      = if inVectorTable s.cfg addr n then .refused .vectorTableWrite
        else .next { s with
          mem := Memory.writeLE s.mem addr.toNat n v.toNat,
          cores := s.cores.set s.cur
            (Core.replied { c with accesses := c.accesses ++ [.bus .write addr n v] } none) } := by
  unfold memWrite
  split
  · rfl
  · exact complete_onCore (s := { s with mem := Memory.writeLE s.mem addr.toNat n v.toNat }) hc none _

/-- A write of a system register completes (R87). -/
theorem completeWrite_sysWrite {s : State} {c : Core} (hr : Ready s c) (r : SysReg) (v : Word) :
    completeWrite (.ok (sysWrite r v s))
      = .next { s with
          cores := s.cores.set s.cur
            ((Core.withSys { c with accesses := c.accesses ++ [.sys .write r v] } r v).replied none) } := by
  rw [completeWrite, sysWrite, State.onCore_onCore]
  exact complete_onCore hr.core none _

/-- PFETCH past its checks: the state it answers (R101). -/
theorem complete_packedRead {s : State} {c : Core} (hr : Ready s c) (p : PackedArray) (pin : Nat) :
    ∃ w answers drawn,
      complete (some (fieldRead (memRead (wordAddr p pin) 4 s).1 (bitOffset p pin) p.sz))
          (memRead (wordAddr p pin) 4 s).2
        = .next { s with
            answers := answers, drawn := drawn,
            cores := s.cores.set s.cur
              (Core.replied { c with accesses := c.accesses ++ [.bus .read (wordAddr p pin) 4 w] }
                (some (fieldRead w (bitOffset p pin) p.sz))) } ∧
      ∀ t : State, t.answers = answers → t.drawn = drawn → BusAnswered s t (wordAddr p pin) 4 w := by
  obtain ⟨w, answers, drawn, hread, hanswered⟩ := memRead_answered s (wordAddr p pin) (n := 4) (by decide)
  refine ⟨w, answers, drawn, ?_, hanswered⟩
  rw [hread]
  exact complete_onCore (s := { s with answers := answers, drawn := drawn }) hr.core _ _

/-- The word PSTORE writes back for the word it read (R102, R103). -/
def packedWritten (p : PackedArray) (pin : Nat) (w value : Word) : Word :=
  BitVec.ofNat 64 (insertField 32 w.toNat (bitOffset p pin) p.sz value.toNat)

/-- PSTORE past its checks and outside the vector table: the state it answers (R102). -/
theorem completeWrite_packed {s : State} {c : Core} (hr : Ready s c) {p : PackedArray} {pin : Nat} (value : Word) :
    ∃ w answers drawn,
      completeWrite (memWrite (wordAddr p pin) 4 (packedWritten p pin (memRead (wordAddr p pin) 4 s).1 value)
          (memRead (wordAddr p pin) 4 s).2)
        = (if inVectorTable s.cfg (wordAddr p pin) 4 then .refused .vectorTableWrite
          else .next { s with
            mem := Memory.writeLE s.mem (wordAddr p pin).toNat 4 (packedWritten p pin w value).toNat,
            answers := answers, drawn := drawn, cores := s.cores.set s.cur
              (Core.replied { c with accesses := c.accesses ++ [.bus .read (wordAddr p pin) 4 w,
                .bus .write (wordAddr p pin) 4 (packedWritten p pin w value)] } none) }) ∧
      ∀ t : State, t.answers = answers → t.drawn = drawn → BusAnswered s t (wordAddr p pin) 4 w := by
  obtain ⟨w, answers, drawn, hread, hanswered⟩ := memRead_answered s (wordAddr p pin) (n := 4) (by decide)
  refine ⟨w, answers, drawn, ?_, hanswered⟩
  rw [hread]
  have hcore := State.onCore_get_cur { s with answers := answers, drawn := drawn }
    fun k => { k with accesses := k.accesses ++ [.bus .read (wordAddr p pin) 4 w] }
  rw [hr.core] at hcore
  rw [completeWrite_memWrite hcore]
  simp [State.onCore_eq_set (s := { s with answers := answers, drawn := drawn }) _ hr.core]

end Sys2Proof.Machine
end

section
/-! SUPPORT. The outcome of a command, said once for all seventeen, and what follows for every next state. -/

namespace Sys2Proof.Machine

/-! ### The outcome of a command -/

/-- What command `i` can answer on the ready core `c`: the fatal path of its first failing check (R131), the refusal
of its store into the vector table (R51), completion (R150), or the ends of HALT and POWEROFF (R112, R113). -/
inductive CommandOutcome (i : Instr) (s : State) (c : Core) : Result → Prop
  | fatal {code : FatalCode} (hf : firstFailure i s c = some code) : CommandOutcome i s c (raiseFatal code s)
  | refused {a : Word} {n : Nat} (hf : firstFailure i s c = none) (ht : storeTarget i s = some (a, n))
      (hv : inVectorTable s.cfg a n = true) : CommandOutcome i s c (.refused .vectorTableWrite)
  | completed {mem : Memory} {answers : List Word} {drawn : Nat} {k : Core} {rdata : Option Word}
      (hf : firstFailure i s c = none) (hhalt : i ≠ .halt) (hoff : i ≠ .poweroff)
      (hv : ∀ a n, storeTarget i s = some (a, n) → inVectorTable s.cfg a n = false)
      (hk : BodyFrame i s c mem k) :
      CommandOutcome i s c (.next { s with mem := mem, answers := answers, drawn := drawn,
                                           cores := s.cores.set s.cur (k.replied rdata) })
  | halted (hi : i = .halt) :
      CommandOutcome i s c (.next { s with cores := s.cores.set s.cur { c with run := .halted } })
  | poweredOff (honoured : Bool) (honours : List Bool) (drawn : Nat) (hi : i = .poweroff) :
      CommandOutcome i s c (.next { s with
        terminated := honoured, honours := honours, drawn := drawn,
        cores := s.cores.set s.cur { c with
          exitReqs := c.exitReqs ++ [honoured], run := if honoured then .running else .halted } })

section Checks

variable {i : Instr} {s : State} {c : Core} {h : Nat} {d : Handle}

theorem firstFailure_handle (hi : handleIndex i = some h) (hd : s.cfg.ht[h]? = some d) :
    firstFailure i s c = firstHandleFailure i h d c := by
  simp [firstFailure, hi, hd]

theorem outcome_withHandle (hi : handleIndex i = some h) {body : Handle → Result}
    (hb : ∀ d, s.cfg.ht[h]? = some d → firstFailure i s c = firstHandleFailure i h d c →
      CommandOutcome i s c (body d)) :
    CommandOutcome i s c (withHandle h s body) := by
  cases hd : s.cfg.ht[h]? with
  | none =>
    rw [withHandle_none hd]
    exact .fatal (by simp [firstFailure, hi, hd])
  | some d =>
    rw [withHandle_some hd]
    exact hb d hd (firstFailure_handle hi hd)

theorem outcome_withCache (hc : s.cores[s.cur]? = some c) (hi : handleIndex i = some h)
    (hd : s.cfg.ht[h]? = some d) (hn : needsCache i = true) {body : Word → Result}
    (hb : ∀ v, c.cache h = some v → CommandOutcome i s c (body v)) : CommandOutcome i s c (withCache h s body) := by
  cases hv : c.cache h with
  | none =>
    rw [withCache_none hc hv]
    exact .fatal (by simp [firstFailure_handle hi hd, firstHandleFailure, hn, hv])
  | some v =>
    rw [withCache_some hc hv]
    exact hb v hv

theorem outcome_check {holds : Bool} {code : FatalCode} {body : Result}
    (hfail : holds = false → firstFailure i s c = some code)
    (hb : holds = true → CommandOutcome i s c body) : CommandOutcome i s c (check holds code s body) := by
  cases hh : holds with
  | false =>
    rw [check_fails rfl]
    exact .fatal (hfail hh)
  | true =>
    rw [check_holds rfl]
    exact hb hh

/-- Completing with a new value of one cache. -/
theorem outcome_setCache (hr : Ready s c) (hi : handleIndex i = some h) (hd : s.cfg.ht[h]? = some d)
    (ht : storeTarget i s = none) (hf : firstFailure i s c = none) {v : Word} (hv : v.toNat < 2 ^ d.width)
    (rdata : Option Word) : CommandOutcome i s c (complete rdata (s.setCache h v)) := by
  rw [complete_onCore hr.core]
  refine .completed hf ?_ ?_ (by simp [ht])
    (bodyFrame_setCache (accesses := c.accesses) hi hd hv (List.prefix_refl _))
  · rintro rfl; cases hi
  · rintro rfl; cases hi

/-- Completing with nothing changed. -/
theorem outcome_unchanged (hr : Ready s c) (hi : handleIndex i = some h) (ht : storeTarget i s = none)
    (hf : firstFailure i s c = none) (rdata : Option Word) : CommandOutcome i s c (complete rdata s) := by
  rw [complete_eq_set hr.core]
  refine .completed (answers := s.answers) (drawn := s.drawn) hf ?_ ?_ (by simp [ht])
    (bodyFrame_accesses (List.prefix_refl _) (storeWithin_mem i s))
  · rintro rfl; cases hi
  · rintro rfl; cases hi

/-- Completing with the register's value read into its cache. -/
theorem outcome_hwRead (hr : Ready s c) (hi : handleIndex i = some h) (hd : s.cfg.ht[h]? = some d)
    (ht : storeTarget i s = none) (hf : firstFailure i s c = none) :
    CommandOutcome i s c (complete (some (hwRead d s).1) ((hwRead d s).2.setCache h (hwRead d s).1)) := by
  obtain ⟨v, access, answers, drawn, heq, hread⟩ := complete_hwRead_eq hr h (handle_wf hr.wf hd)
  rw [heq]
  refine .completed hf ?_ ?_ (by simp [ht]) (bodyFrame_setCache hi hd hread.width (List.prefix_append _ _))
  · rintro rfl; cases hi
  · rintro rfl; cases hi

theorem fieldWritten_lt {shift width : Nat} {old value : Word} (hg : shift + width ≤ d.width)
    (hv : value.toNat < 2 ^ width) : (fieldWritten d old shift width value).toNat < 2 ^ d.width := by
  rw [fieldWritten, BitVec.toNat_ofNat]
  exact Nat.lt_of_le_of_lt (Nat.mod_le _ _) (insertField_lt hg hv)

theorem outcome_withArray {a pin : Nat} {value : Option Word} {body : PackedArray → Result}
    (hi : firstFailure i s c = (s.cfg.pt[a]?).elim (some .badIndex) (firstPackedFailure pin value))
    (hb : ∀ p, s.cfg.pt[a]? = some p → firstFailure i s c = firstPackedFailure pin value p →
      CommandOutcome i s c (body p)) : CommandOutcome i s c (withArray a s body) := by
  cases hp : s.cfg.pt[a]? with
  | none =>
    rw [withArray_none hp]
    exact .fatal (by simp [hi, hp])
  | some p =>
    rw [withArray_some hp]
    exact hb p hp (by simp [hi, hp])

/-- STORE past its checks (R87). -/
theorem outcome_hwWrite (hr : Ready s c) (hd : s.cfg.ht[h]? = some d) (hf : firstFailure (.store h) s c = none)
    (v : Word) : CommandOutcome (.store h) s c (completeWrite (hwWrite d v s)) := by
  unfold hwWrite
  split
  · rename_i addr hl
    have htarget : storeTarget (.store h) s = some (addr, d.width / 8) := by simp [storeTarget, hd, hl]
    rw [completeWrite_memWrite hr.core]
    split
    · rename_i hv
      exact .refused hf htarget hv
    · rename_i hv
      refine .completed (answers := s.answers) (drawn := s.drawn) hf nofun nofun (fun a n ht => ?_)
        (bodyFrame_accesses (List.prefix_append _ _) (storeWithin_writeLE htarget _))
      rw [htarget] at ht
      cases ht
      exact Bool.eq_false_iff.mpr hv
  · rename_i r hl
    rw [completeWrite_sysWrite hr]
    refine .completed (mem := s.mem) (answers := s.answers) (drawn := s.drawn) hf nofun nofun ?_
      (bodyFrame_withSys c (by simp [writesSys, hd, hl]) r v)
    simp [storeTarget, hd, hl]

/-- PSTORE past its checks (R102). -/
theorem outcome_packedWrite (hr : Ready s c) {a pin : Nat} {p : PackedArray} (hp : s.cfg.pt[a]? = some p)
    (hf : firstFailure (.pstore a pin) s c = none) (value : Word) :
    CommandOutcome (.pstore a pin) s c
      (completeWrite (memWrite (wordAddr p pin) 4 (packedWritten p pin (memRead (wordAddr p pin) 4 s).1 value)
        (memRead (wordAddr p pin) 4 s).2)) := by
  have htarget : storeTarget (.pstore a pin) s = some (wordAddr p pin, 4) := by simp [storeTarget, hp]
  obtain ⟨w, answers, drawn, heq, -⟩ := completeWrite_packed hr (p := p) (pin := pin) value
  rw [heq]
  split
  · rename_i hv
    exact .refused hf htarget hv
  · rename_i hv
    refine .completed hf nofun nofun (fun a n ht => ?_)
      (bodyFrame_accesses (List.prefix_append _ _) (storeWithin_writeLE htarget _))
    rw [htarget] at ht
    cases ht
    exact Bool.eq_false_iff.mpr hv

/-- PFETCH past its checks (R101). -/
theorem outcome_packedRead (hr : Ready s c) {a pin : Nat} (p : PackedArray)
    (hf : firstFailure (.pfetch a pin) s c = none) :
    CommandOutcome (.pfetch a pin) s c
      (complete (some (fieldRead (memRead (wordAddr p pin) 4 s).1 (bitOffset p pin) p.sz))
        (memRead (wordAddr p pin) 4 s).2) := by
  obtain ⟨w, answers, drawn, heq, -⟩ := complete_packedRead hr p pin
  rw [heq]
  exact .completed hf nofun nofun nofun (bodyFrame_accesses (List.prefix_append _ _) (storeWithin_mem _ s))

end Checks

/-- Every command on a ready core has one of these outcomes. -/
theorem exec_outcome {s : State} {c : Core} (hr : Ready s c) (i : Instr) : CommandOutcome i s c (exec i s) := by
  cases i with
  | newz h =>
    rw [exec_newz hr]
    refine outcome_withHandle rfl fun d hd hf => outcome_setCache hr rfl hd rfl ?_ (Nat.two_pow_pos _) none
    simp [hf, firstHandleFailure, needsCache, fieldEnd, dataWidth]
  | newv h =>
    rw [exec_newv hr]
    refine outcome_withHandle rfl fun d hd hf => outcome_check (fun hw => ?_) fun hw =>
      outcome_setCache hr rfl hd rfl ?_ ((fits_iff _ _).mp hw) none
    all_goals
      simp only [fits, decide_eq_true_eq, decide_eq_false_iff_not, Nat.not_lt] at hw
      simp [hf, firstHandleFailure, needsCache, fieldEnd, dataWidth, hw]
  | newf h =>
    rw [exec_newf hr]
    refine outcome_withHandle rfl fun d hd hf => outcome_hwRead hr rfl hd rfl ?_
    simp [hf, firstHandleFailure, needsCache, fieldEnd, dataWidth]
  | getv h =>
    rw [exec_getv hr]
    refine outcome_withHandle rfl fun d hd hf => outcome_withCache hr.core rfl hd rfl fun v hv =>
      outcome_unchanged hr rfl rfl ?_ _
    simp [hf, firstHandleFailure, needsCache, fieldEnd, dataWidth, hv]
  | setv h =>
    rw [exec_setv hr]
    refine outcome_withHandle rfl fun d hd hf => outcome_withCache hr.core rfl hd rfl fun v hv =>
      outcome_check (fun hw => ?_) fun hw => outcome_setCache hr rfl hd rfl ?_ ((fits_iff _ _).mp hw) none
    all_goals
      simp only [fits, decide_eq_true_eq, decide_eq_false_iff_not, Nat.not_lt] at hw
      simp [hf, firstHandleFailure, needsCache, fieldEnd, dataWidth, hv, hw]
  | fetch h =>
    rw [exec_fetch hr]
    refine outcome_withHandle rfl fun d hd hf => outcome_withCache hr.core rfl hd rfl fun v hv =>
      outcome_hwRead hr rfl hd rfl ?_
    simp [hf, firstHandleFailure, needsCache, fieldEnd, dataWidth, hv]
  | store h =>
    rw [exec_store hr]
    refine outcome_withHandle rfl fun d hd hf => outcome_withCache hr.core rfl hd rfl fun v hv =>
      outcome_check (fun hl => ?_) fun hl => outcome_hwWrite hr hd ?_ v
    all_goals
      simp only [bne_iff_ne, bne_eq_false_iff_eq, ne_eq] at hl
      simp [hf, firstHandleFailure, needsCache, fieldEnd, dataWidth, hv, hl]
  | getbits h shift width =>
    rw [exec_getbits hr]
    refine outcome_withHandle rfl fun d hd hf => outcome_withCache hr.core rfl hd rfl fun v hv =>
      outcome_check (fun hg => ?_) fun hg => outcome_unchanged hr rfl rfl ?_ _
    all_goals
      simp only [decide_eq_true_eq, decide_eq_false_iff_not, Nat.not_le] at hg
      simp [hf, firstHandleFailure, needsCache, fieldEnd, dataWidth, hv, hg]
  | setbits h shift width =>
    rw [exec_setbits hr]
    refine outcome_withHandle rfl fun d hd hf => outcome_withCache hr.core rfl hd rfl fun v hv =>
      outcome_check (fun hg => ?_) fun hg => outcome_check (fun hw => ?_) fun hw =>
        outcome_setCache hr rfl hd rfl ?_
          (fieldWritten_lt (of_decide_eq_true hg) ((fits_iff _ _).mp hw)) none
    all_goals simp only [fits, decide_eq_true_eq, decide_eq_false_iff_not, Nat.not_le, Nat.not_lt] at *
    · simp [hf, firstHandleFailure, needsCache, fieldEnd, hv, hg]
    · simp [hf, firstHandleFailure, needsCache, fieldEnd, dataWidth, hv, hg.not_gt, hw]
    · simp [hf, firstHandleFailure, needsCache, fieldEnd, dataWidth, hv, hg.not_gt, hw.not_ge]
  | getbit h bit =>
    rw [exec_getbit hr]
    refine outcome_withHandle rfl fun d hd hf => outcome_withCache hr.core rfl hd rfl fun v hv =>
      outcome_check (fun hg => ?_) fun hg => outcome_unchanged hr rfl rfl ?_ _
    all_goals
      simp only [decide_eq_true_eq, decide_eq_false_iff_not, Nat.not_lt] at hg
      simp [hf, firstHandleFailure, needsCache, fieldEnd, dataWidth, hv]
      omega
  | setbit h bit =>
    rw [exec_setbit hr]
    refine outcome_withHandle rfl fun d hd hf => outcome_withCache hr.core rfl hd rfl fun v hv =>
      outcome_check (fun hg => ?_) fun hg => outcome_check (fun hw => ?_) fun hw =>
        outcome_setCache hr rfl hd rfl ?_
          (fieldWritten_lt (of_decide_eq_true hg) ((fits_iff _ _).mp hw)) none
    all_goals simp only [fits, decide_eq_true_eq, decide_eq_false_iff_not, Nat.not_lt] at *
    · simp [hf, firstHandleFailure, needsCache, fieldEnd, hv, Nat.lt_succ_of_le hg]
    · simp [hf, firstHandleFailure, needsCache, fieldEnd, dataWidth, hv, Nat.not_lt.mpr hg]
      omega
    · simp [hf, firstHandleFailure, needsCache, fieldEnd, dataWidth, hv, Nat.not_lt.mpr hg]
      omega
  | pfetch a pin =>
    rw [exec_pfetch hr]
    refine outcome_withArray rfl fun p hp hf => outcome_check (fun hpin => ?_) fun hpin => outcome_packedRead hr p ?_
    all_goals
      simp only [decide_eq_true_eq, decide_eq_false_iff_not, Nat.not_lt] at hpin
      simp [hf, firstPackedFailure, hpin]
  | pstore a pin =>
    rw [exec_pstore hr]
    refine outcome_withArray rfl fun p hp hf => outcome_check (fun hpin => ?_) fun hpin =>
      outcome_check (fun hw => ?_) fun hw => outcome_packedWrite hr hp ?_ c.wdata
    all_goals simp only [fits, decide_eq_true_eq, decide_eq_false_iff_not, Nat.not_lt] at *
    · simp [hf, firstPackedFailure, hpin]
    · simp [hf, firstPackedFailure, hpin.not_ge, hw]
    · simp [hf, firstPackedFailure, hpin.not_ge, hw.not_ge]
  | initexc =>
    rw [exec_initexc hr, complete_onCore hr.core]
    exact .completed (mem := s.mem) (answers := s.answers) (drawn := s.drawn) rfl nofun nofun nofun
      (bodyFrame_armed s c)
  | getcid =>
    rw [exec_getcid hr, complete_onCore hr.core]
    exact .completed (answers := s.answers) (drawn := s.drawn) rfl nofun nofun nofun
      (bodyFrame_accesses (List.prefix_append _ _) (storeWithin_mem _ s))
  | halt =>
    rw [exec_halt hr]
    exact .halted rfl
  | poweroff =>
    obtain ⟨honoured, honours, drawn, heq, -⟩ := exec_poweroff hr
    rw [heq]
    exact .poweredOff honoured honours drawn rfl

/-! ### What a command that answers a next state leaves -/

/-- A command answers a next state only on a core whose port accepts it. -/
theorem ready_of_exec_next {i : Instr} {s t : State} (h : exec i s = .next t) : ∃ c, Ready s c := by
  cases i <;> exact (issue_next h).2

/-- What is true of core `c` and the machine after command `i`, fatal or not, with `c'` the core it leaves. -/
structure CommandEffect (i : Instr) (s t : State) (c c' : Core) : Prop where
  cores : t.cores = s.cores.set s.cur c'
  cfg : t.cfg = s.cfg
  cur : t.cur = s.cur
  inputs : t.inputs = s.inputs
  registers : SameRegisters c c'
  pendIrq : c'.pendIrq = c.pendIrq
  pendFiq : c'.pendFiq = c.pendFiq
  pendSError : c'.pendSError = c.pendSError
  caches : CachesWithin i s.cfg c c'
  sys : writesSys i s = false → SameSys c c'
  accesses : c.accesses <+: c'.accesses
  exitReqs : c.exitReqs <+: c'.exitReqs
  store : StoreWithin i s t.mem
  report : (c'.diag = c.diag ∧ (c'.run = .running ∨ c'.run = .halted)) ∨
    (c'.run = .halted ∧ ∃ r, c'.diag = c.diag ++ [r])

/-- A command that writes nothing but the run state, the reply, the records and the exit requests of its core. -/
theorem commandEffect_of_same {i : Instr} {s t : State} {c c' : Core} (hcores : t.cores = s.cores.set s.cur c')
    (hmachine : t.cfg = s.cfg ∧ t.cur = s.cur ∧ t.inputs = s.inputs ∧ t.mem = s.mem)
    (hcore : c' = { c with run := c'.run, rdata := c'.rdata, status := c'.status, diag := c'.diag,
                           exitReqs := c'.exitReqs })
    (hexit : c.exitReqs <+: c'.exitReqs)
    (hreport : (c'.diag = c.diag ∧ (c'.run = .running ∨ c'.run = .halted)) ∨
      (c'.run = .halted ∧ ∃ r, c'.diag = c.diag ++ [r])) : CommandEffect i s t c c' := by
  obtain ⟨hcfg, hcur, hinputs, hmem⟩ := hmachine
  rw [hcore] at hcores ⊢
  exact ⟨hcores, hcfg, hcur, hinputs, ⟨rfl, rfl, rfl, rfl, rfl, rfl, rfl, rfl⟩, rfl, rfl, rfl,
    cachesWithin_of_eq i s.cfg rfl, fun _ => ⟨rfl, rfl, rfl, rfl, rfl, rfl, rfl, rfl⟩, List.prefix_refl _,
    hexit, hmem ▸ storeWithin_mem i s, hreport⟩

/-- Every next state of a command has this shape. -/
theorem exec_effect {i : Instr} {s t : State} (h : exec i s = .next t) :
    ∃ c c', Ready s c ∧ CommandEffect i s t c c' := by
  obtain ⟨c, hr⟩ := ready_of_exec_next h
  have hout := exec_outcome hr i
  rw [h] at hout
  generalize hres : Host.Outcome.next t = r at hout
  cases hout with
  | @fatal code hf =>
    rw [raiseFatal, State.onCore_eq_set _ hr.core] at hres
    cases hres
    exact ⟨c, c.failed code, hr, commandEffect_of_same rfl ⟨rfl, rfl, rfl, rfl⟩ rfl (List.prefix_refl _)
      (.inr ⟨rfl, _, rfl⟩)⟩
  | refused hf ht hv => cases hres
  | @completed mem answers drawn k rdata hf hhalt hoff hv hk =>
    cases hres
    exact ⟨c, k.replied rdata, hr, rfl, rfl, rfl, rfl, { hk.registers with }, hk.ports.pendIrq, hk.ports.pendFiq,
      hk.ports.pendSError, { hk.caches with }, fun hs => { hk.sys hs with }, hk.accesses,
      hk.ports.exitReqs ▸ List.prefix_refl _, hk.store, .inl ⟨hk.ports.diag, .inl (hk.run.trans hr.running)⟩⟩
  | halted hi =>
    cases hres
    exact ⟨c, _, hr, commandEffect_of_same rfl ⟨rfl, rfl, rfl, rfl⟩ rfl (List.prefix_refl _)
      (.inl ⟨rfl, .inr rfl⟩)⟩
  | poweredOff honoured honours drawn hi =>
    cases hres
    refine ⟨c, _, hr, commandEffect_of_same rfl ⟨rfl, rfl, rfl, rfl⟩ rfl (List.prefix_append _ _) (.inl ⟨rfl, ?_⟩)⟩
    cases honoured
    · exact .inr rfl
    · exact .inl rfl

/-- A command stores at least one byte (R42). -/
theorem storeTarget_pos {i : Instr} {s : State} {a : Word} {n : Nat} (hwf : s.cfg.wf = true)
    (h : storeTarget i s = some (a, n)) : 0 < n := by
  unfold storeTarget at h
  split at h
  case h_1 =>
    split at h
    · rename_i hd
      split at h
      · rename_i hl
        cases h
        have hwidth := handle_wf hwf hd
        simp [Handle.wf, hl] at hwidth
        omega
      · cases h
    · cases h
  case h_2 =>
    split at h
    · cases h
      decide
    · cases h
  all_goals cases h

/-- The code of a fatal outcome is the one in the record it appends. -/
theorem fatalOutcome_code_inj {s : State} {c : Core} {code code' : FatalCode} {r : Result}
    (hc : s.cores[s.cur]? = some c) (h : FatalOutcome s c code r) (h' : FatalOutcome s c code' r) :
    code = code' := by
  have hlt := (List.getElem?_eq_some_iff.mp hc).1
  have hstate := Host.Outcome.next.inj (h.symm.trans h')
  have hcore := congrArg (fun t : State => (t.cores[s.cur]?).map Core.diag) hstate
  simp only [List.getElem?_set_self hlt, Option.map_some, Option.some.injEq, List.append_cancel_left_eq,
    List.cons.injEq, DiagRecord.configError.injEq, and_true] at hcore
  revert hcore
  cases code <;> cases code' <;> decide

/-- A result in which the issuing core has the records it had is not a fatal outcome. -/
theorem not_fatalOutcome_of_diag {s t : State} {c k : Core} {code : FatalCode} (hc : s.cores[s.cur]? = some c)
    (hcores : t.cores = s.cores.set s.cur k) (hdiag : k.diag = c.diag) : ¬ FatalOutcome s c code (.next t) := by
  intro h
  have hlt := (List.getElem?_eq_some_iff.mp hc).1
  have hcore := congrArg (fun t : State => (t.cores[s.cur]?).map Core.diag) (Host.Outcome.next.inj h)
  simp [hcores, hlt, hdiag] at hcore

end Sys2Proof.Machine
end

section
/-! CERTIFICATES. The checks of the commands (40_scalar_register.md R80, 41_packed_array.md R101, R102,
60_exceptions.md R130, R131, R150) and what no command changes. -/

namespace Sys2Proof.Proofs

open Sys2Proof.Machine

/-- Settles O8: of the outcomes of a command only the fatal one appends a record, and its code is the first failure. -/
theorem fatalIsTheFirstFailingCheck : Obligations.FatalIsTheFirstFailingCheck := by
  intro i s c code hr
  have hout := exec_outcome hr i
  generalize exec i s = r at hout
  cases hout with
  | @fatal code' hf =>
    have hfatal := raiseFatal_outcome code' hr.core
    refine ⟨fun h => fatalOutcome_code_inj hr.core h hfatal ▸ hf, fun h => ?_⟩
    obtain rfl : code' = code := Option.some.inj (hf.symm.trans h)
    exact hfatal
  | refused hf ht hv => exact ⟨nofun, fun h => by rw [hf] at h; cases h⟩
  | completed hf hhalt hoff hv hk =>
    exact ⟨fun h => absurd h (not_fatalOutcome_of_diag hr.core rfl hk.ports.diag),
      fun h => by rw [hf] at h; cases h⟩
  | halted hi =>
    subst hi
    exact ⟨fun h => absurd h (not_fatalOutcome_of_diag hr.core rfl rfl), nofun⟩
  | poweredOff honoured honours drawn hi =>
    subst hi
    exact ⟨fun h => absurd h (not_fatalOutcome_of_diag hr.core rfl rfl), nofun⟩

/-- Settles O9: past the checks and outside the vector table only completion is left. -/
theorem passedChecksComplete : Obligations.PassedChecksComplete := by
  intro i s c hr hf hhalt hoff htable
  have hout := exec_outcome hr i
  generalize exec i s = r at hout
  cases hout with
  | fatal hf' => rw [hf] at hf'; cases hf'
  | refused _ ht hv => rw [htable _ _ ht] at hv; cases hv
  | completed _ _ _ _ hk => exact ⟨_, _, rfl, completed_replied hr hk.run hk.registers hk.ports _ _ _ _⟩
  | halted hi => exact absurd hi hhalt
  | poweredOff _ _ _ hi => exact absurd hi hoff

/-- Settles O10: a store whose first byte lies in the table shares that byte with it, so it is not completed. -/
theorem vectorTableWritesAreRefused : Obligations.VectorTableWritesAreRefused := by
  intro i s c a n hr hf ht hlow hhigh
  have hpos := storeTarget_pos hr.wf ht
  have htable : inVectorTable s.cfg a n = true := by
    simp only [inVectorTable, Bool.and_eq_true, decide_eq_true_eq]
    omega
  have hout := exec_outcome hr i
  generalize exec i s = r at hout
  cases hout with
  | fatal hf' => rw [hf] at hf'; cases hf'
  | refused => rfl
  | completed _ _ _ hv _ => rw [hv a n ht] at htable; cases htable
  | halted hi => subst hi; cases ht
  | poweredOff _ _ _ hi => subst hi; cases ht

/-- Settles O33: the effect of every next state of a command keeps these registers. -/
theorem commandsLeaveTheCoreRegisters : Obligations.CommandsLeaveTheCoreRegisters := by
  intro i s t h
  obtain ⟨c, c', hr, he⟩ := exec_effect h
  refine ⟨c, c', hr.core, ?_, he.registers, he.cfg, he.cur, he.inputs, fun j hj => ?_, he.pendIrq, he.pendFiq,
    he.pendSError⟩
  · rw [he.cur, he.cores, List.getElem?_set_self (List.getElem?_eq_some_iff.mp hr.core).1]
  · rw [he.cores, List.getElem?_set_ne hj.symm]

/-- Settles O34: the effect of every next state of a command names the writers of system registers and of caches. -/
theorem onlyInitexcAndSysregStoresWriteSystemRegisters :
    Obligations.OnlyInitexcAndSysregStoresWriteSystemRegisters := by
  intro i s t c c' h hc hc'
  obtain ⟨k, k', hr, he⟩ := exec_effect h
  obtain rfl : k = c := Option.some.inj (hr.core.symm.trans hc)
  rw [he.cur, he.cores, List.getElem?_set_self (List.getElem?_eq_some_iff.mp hr.core).1] at hc'
  obtain rfl : k' = c' := Option.some.inj hc'
  exact ⟨he.sys, he.caches.indexless⟩

/-- Settles O35: the storage a command leaves is the old one, or one wide write of it at the store target. -/
theorem commandsWriteOnlyTheirStoreTarget : Obligations.CommandsWriteOnlyTheirStoreTarget := by
  intro i s t h
  obtain ⟨c, c', -, he⟩ := exec_effect h
  refine ⟨fun hn a => by rw [he.store.none hn], fun a n ht x hx => ?_⟩
  rcases he.store.some a n ht with hm | ⟨v, hm⟩
  · rw [hm]
  · rw [hm, Memory.read_writeLE_other n _ _ _ _ hx]

end Sys2Proof.Proofs
end

section
/-! SUPPORT. What a step can do to a core, said once: it boots, runs a command, has a trap event recorded, takes a
trap, or is left as it was (10_state.md R10, R11). -/

namespace Sys2Proof.Machine

/-! ### The step, input by input -/

theorem step_of_input {s : State} {i : Input} {rest : List Input} (hwf : s.cfg.wf = true)
    (hi : s.inputs = i :: rest) : step s = perform i { s with inputs := rest } := by
  simp only [step, transition, hwf, if_true, hi]

theorem step_of_nothing {s : State} (hwf : s.cfg.wf = true) (hi : s.inputs = []) : step s = autonomous s := by
  simp only [step, transition, hwf, if_true, hi]

theorem canBoot_iff (s : State) (j : Nat) :
    s.canBoot j = true ↔ s.terminated = false ∧ ∃ c, s.cores[j]? = some c ∧ c.run = .reset := by
  unfold State.canBoot
  cases h : s.cores[j]? <;> simp

/-- Core `j` of the machine `s`, which is `k`, after its boot transition (R121, R122). -/
def Core.booted (s : State) (j : Nat) (k : Core) : Core :=
  let id := s.coreId j
  let read : Access := .sys .read .coreid (s.cfg.coreidRaw.getD j 0)
  let k1 := k.setSP (stackTop s.cfg id)
  let k2 := if s.cfg.passCoreid then k1.setArg0 id else k1
  { k2.setPc s.cfg.entry with
    accesses := k.accesses ++ (if s.cfg.passCoreid then [read] else [read, read]),
    diag := k.diag ++ (if id = 0 then [] else [.coreReport id]),
    run := if id = 0 then .running else .halted }

/-- The gate lets the primary core through (R122). -/
theorem Core.booted_of_primary {s : State} {j : Nat} (h : s.coreId j = 0) (k : Core) :
    (k.booted s j).run = .running ∧ (k.booted s j).diag = k.diag := by
  simp only [Core.booted, if_pos h, List.append_nil, and_self]

/-- The gate halts a secondary core with its report (R122). -/
theorem Core.booted_of_secondary {s : State} {j : Nat} (h : s.coreId j ≠ 0) (k : Core) :
    (k.booted s j).run = .halted ∧ (k.booted s j).diag = k.diag ++ [.coreReport (s.coreId j)] := by
  simp only [Core.booted, if_neg h, and_self]

@[simp] theorem Core.booted_accesses (s : State) (j : Nat) (k : Core) :
    (k.booted s j).accesses = k.accesses ++
      List.replicate (if s.cfg.passCoreid then 1 else 2) (.sys .read .coreid (s.cfg.coreidRaw.getD j 0)) := by
  unfold Core.booted
  cases s.cfg.passCoreid <;> rfl

@[simp] theorem Core.booted_pcWritten (s : State) (j : Nat) (k : Core) : (k.booted s j).pcWritten = true := rfl

@[simp] theorem Core.booted_caches (s : State) (j : Nat) (k : Core) : (k.booted s j).caches = k.caches := by
  unfold Core.booted
  cases s.cfg.passCoreid <;> simp

@[simp] theorem Core.booted_exitReqs (s : State) (j : Nat) (k : Core) : (k.booted s j).exitReqs = k.exitReqs := by
  unfold Core.booted
  cases s.cfg.passCoreid <;> simp

@[simp] theorem Core.booted_pending (s : State) (j : Nat) (k : Core) (q : TrapClass) :
    (k.booted s j).pending q = k.pending q := by
  unfold Core.booted
  cases s.cfg.passCoreid <;> cases q <;> simp [Core.pending]

theorem Core.booted_sameSys (s : State) (j : Nat) (k : Core) : SameSys k (k.booted s j) := by
  unfold Core.booted
  cases s.cfg.passCoreid <;> constructor <;> simp

theorem bootCore_eq {s : State} {j : Nat} {c : Core} (hc : s.cores[j]? = some c) :
    bootCore (s.atCore j) = { s with cur := j, cores := s.cores.set j (c.booted s j) } := by
  rw [bootCore_spec, State.onCore_eq_set (s := s.atCore j) _ hc]
  rfl

/-- A core after a trap whose vector is defined: entry, stub, report, halt (R140 to R144). -/
def Core.trapped (cfg : Config) (c : Core) (k : TrapClass) (e : TrapRecord) : Core :=
  let g := c.trapGroup e.origin
  { (c.enterTrap k e).stub (trapTag cfg g k) with
    accesses := c.accesses ++ [.sys .read .elr e.elr, .sys .read .esr e.esr, .sys .read .far e.far],
    diag := c.diag ++ [.trapReport (groupCode cfg g) (classCode cfg k) e.elr e.esr e.far],
    run := .halted }

theorem takeTrap_eq {s : State} {j : Nat} {c : Core} (k : TrapClass) (e : TrapRecord) (hc : s.cores[j]? = some c) :
    takeTrap k e (s.atCore j) = { s with
      cur := j,
      cores := s.cores.set j
        (if c.vectorDefined s.cfg then c.trapped s.cfg k e else { c with run := .faulted }) } := by
  have hc' : (s.atCore j).cores[(s.atCore j).cur]? = some c := hc
  cases hv : c.vectorDefined s.cfg
  · rw [takeTrap_undefined k e hc' hv]
    exact State.onCore_eq_set _ hc'
  · exact takeTrap_defined k e hc' hv

/-- An asynchronous event for a core the machine does not have is lost. -/
theorem onCore_of_none {s : State} (f : Core → Core) (hc : s.cores[s.cur]? = none) : s.onCore f = s := by
  rw [State.onCore, List.modify_eq_self (List.getElem?_eq_none_iff.mp hc)]

/-! ### What a step does to a core -/

/-- What a command, legal or not, does to the core it is presented to. -/
structure PortEffect (cfg : Config) (c c' : Core) : Prop where
  registers : SameRegisters c c'
  pendIrq : c'.pendIrq = c.pendIrq
  pendFiq : c'.pendFiq = c.pendFiq
  pendSError : c'.pendSError = c.pendSError
  caches : c'.caches.length = c.caches.length
  width : ∀ h d v, cfg.ht[h]? = some d → c'.cache h = some v → c.cache h = some v ∨ v.toNat < 2 ^ d.width
  accesses : c.accesses <+: c'.accesses
  exitReqs : c.exitReqs <+: c'.exitReqs
  report : (c'.diag = c.diag ∧ (c'.run = .running ∨ c'.run = .halted)) ∨
    (c'.run = .halted ∧ ∃ r, c'.diag = c.diag ++ [r])

/-- The changes a step other than the external reset can make to core `j`, which is `c`. -/
inductive CoreMove (s : State) (j : Nat) (c : Core) : Core → Prop
  | boot (hb : BootsNext s j) (hr : c.run = .reset) : CoreMove s j c (c.booted s j)
  | command {cmd : CmdWord} {wdata : Word} {rest : List Input} {c' : Core}
      (hi : s.inputs = .command j cmd wdata :: rest) (hl : s.terminated = false) (hr : c.run = .running)
      (he : PortEffect s.cfg c c') : CoreMove s j c c'
  | pending {k : TrapClass} {e : TrapRecord} {rest : List Input} (hi : s.inputs = .trap j k e :: rest) :
      CoreMove s j c (c.setPending k e)
  | trapped {k : TrapClass} {e : TrapRecord} {i : Input} {rest : List Input} (hi : s.inputs = i :: rest)
      (hk : i = .trap j k e ∨ i = .deliver j k) (hl : s.terminated = false) (hr : c.run = .running) :
      CoreMove s j c (c.trapped s.cfg k e)
  | faulted {k : TrapClass} {e : TrapRecord} {i : Input} {rest : List Input} (hi : s.inputs = i :: rest)
      (hk : i = .trap j k e ∨ i = .deliver j k) (hl : s.terminated = false) (hr : c.run = .running) :
      CoreMove s j c { c with run := .faulted }

/-- What a step that answers `t` did: the external reset, nothing to any core, or one move of one core. -/
inductive StepEffect (s t : State) : Prop
  | reset {draws : List Draw} {rest : List Input} (hi : s.inputs = .reset draws :: rest)
      (ht : t = externalReset draws { s with inputs := rest })
  | kept (hcores : t.cores = s.cores) (hterm : t.terminated = s.terminated) (hcfg : t.cfg = s.cfg)
      (hmem : Memory.wf s.mem → Memory.wf t.mem)
  | moved {j : Nat} {c c' : Core} (hc : s.cores[j]? = some c) (hcores : t.cores = s.cores.set j c')
      (hterm : s.terminated = true → t.terminated = true) (hcfg : t.cfg = s.cfg)
      (hmem : Memory.wf s.mem → Memory.wf t.mem) (hmove : CoreMove s j c c')

/-- A command's effect on its core, told of the core before the command was presented. -/
theorem portEffect_of_commandEffect {i : Instr} {s t : State} {c c' : Core} {cmd : CmdWord} {wdata : Word}
    (he : CommandEffect i s t { c with cmd := cmd, wdata := wdata, rdata := none, status := none } c') :
    PortEffect s.cfg c c' where
  registers := { he.registers with }
  pendIrq := he.pendIrq
  pendFiq := he.pendFiq
  pendSError := he.pendSError
  caches := he.caches.length
  width := he.caches.width
  accesses := he.accesses
  exitReqs := he.exitReqs
  report := he.report

/-- The storage a command leaves is in canonical form. -/
theorem StoreWithin.wf {i : Instr} {s : State} {m : Memory} (h : StoreWithin i s m) (hm : Memory.wf s.mem) :
    Memory.wf m := by
  cases ht : storeTarget i s with
  | none =>
    rw [h.none ht]
    exact hm
  | some x =>
    rcases h.some x.1 x.2 ht with heq | ⟨v, heq⟩
    · rw [heq]
      exact hm
    · rw [heq]
      exact Memory.writeLE_wf _ hm _ _

theorem Core.failed_portEffect (cfg : Config) (c : Core) (code : FatalCode) (cmd : CmdWord) (wdata : Word) :
    PortEffect cfg c
      (Core.failed { c with cmd := cmd, wdata := wdata, rdata := none, status := none } code) where
  registers := ⟨rfl, rfl, rfl, rfl, rfl, rfl, rfl, rfl⟩
  pendIrq := rfl
  pendFiq := rfl
  pendSError := rfl
  caches := rfl
  width _ _ _ _ hv := .inl hv
  accesses := List.prefix_refl _
  exitReqs := List.prefix_refl _
  report := .inr ⟨rfl, _, rfl⟩

theorem present_cores {s : State} {j : Nat} {c : Core} (cmd : CmdWord) (wdata : Word) (hc : s.cores[j]? = some c) :
    (s.present j cmd wdata).cores
      = s.cores.set j { c with cmd := cmd, wdata := wdata, rdata := none, status := none } := by
  rw [State.present, State.onCore_eq_set (s := s.atCore j) _ hc]
  rfl

/-- Running the port of an accepting core. -/
theorem runPort_present {s t : State} {j : Nat} {c : Core} {cmd : CmdWord} {wdata : Word} (hwf : s.cfg.wf = true)
    (hc : s.cores[j]? = some c) (hr : c.run = .running) (hl : s.terminated = false)
    (h : runPort (s.present j cmd wdata) = .next t) :
    ∃ c', t.cores = s.cores.set j c' ∧ t.cfg = s.cfg ∧ (Memory.wf s.mem → Memory.wf t.mem) ∧
      PortEffect s.cfg c c' := by
  have hready := present_ready cmd wdata hwf hc hr hl
  unfold runPort at h
  split at h
  · rename_i i hi
    obtain ⟨p, c', hp, he⟩ := exec_effect h
    obtain rfl := Option.some.inj (hp.core.symm.trans hready.core)
    refine ⟨c', ?_, he.cfg, he.store.wf, portEffect_of_commandEffect (s := s.present j cmd wdata) he⟩
    rw [he.cores, present_cores cmd wdata hc, State.present_cur, List.set_set]
  · rw [raiseFatal, State.onCore_eq_set _ hready.core] at h
    cases h
    refine ⟨_, ?_, rfl, id, Core.failed_portEffect s.cfg c .badCommand cmd wdata⟩
    simp only [present_cores cmd wdata hc, State.present_cur, List.set_set]

/-- A command input: dropped, or run on the core it addresses. -/
theorem onCommand_effect {s t : State} {j : Nat} {cmd : CmdWord} {wdata : Word} {rest : List Input}
    (hwf : s.cfg.wf = true) (hi : s.inputs = .command j cmd wdata :: rest)
    (h : onCommand j cmd wdata { s with inputs := rest } = .next t) : StepEffect s t := by
  unfold onCommand at h
  split at h
  · rename_i ha
    obtain ⟨hl, c, hc, hr⟩ := (accepts_iff _ j).mp ha
    obtain ⟨c', hcores, hcfg, hmem, he⟩ := runPort_present (s := { s with inputs := rest }) hwf hc hr hl h
    exact .moved hc hcores (fun ht => absurd ht (by simp [show s.terminated = false from hl])) hcfg hmem
      (.command hi hl hr he)
  · cases h
    exact .kept rfl rfl rfl id

/-- A boot input: dropped, or the boot of the core it addresses. -/
theorem onBoot_effect {s : State} {j : Nat} {rest : List Input} (hi : s.inputs = .boot j :: rest) :
    StepEffect s (onBoot j { s with inputs := rest }) := by
  unfold onBoot
  split
  · rename_i hb
    obtain ⟨hl, c, hc, hr⟩ := (canBoot_iff _ j).mp hb
    rw [bootCore_eq (s := { s with inputs := rest }) hc]
    exact .moved hc rfl id rfl id (.boot ⟨hl, ⟨c, hc, hr⟩, .inl ⟨rest, hi⟩⟩ hr)
  · exact .kept rfl rfl rfl id

/-- Taking a trap on a core that accepts it: report and halt, or FAULTED. -/
theorem takeTrap_effect {s : State} {j : Nat} {c : Core} {k : TrapClass} {e : TrapRecord} {i : Input}
    {rest : List Input} (hi : s.inputs = i :: rest) (hk : i = .trap j k e ∨ i = .deliver j k)
    (hl : s.terminated = false) (hc : s.cores[j]? = some c) (hr : c.run = .running) :
    StepEffect s (takeTrap k e (State.atCore { s with inputs := rest } j)) := by
  rw [takeTrap_eq (s := { s with inputs := rest }) k e hc]
  refine .moved hc rfl id rfl id ?_
  split
  · exact .trapped hi hk hl hr
  · exact .faulted (e := e) hi hk hl hr

/-- A trap event: dropped, taken, or recorded as pending. -/
theorem onTrap_effect {s : State} {j : Nat} {k : TrapClass} {e : TrapRecord} {rest : List Input}
    (hi : s.inputs = .trap j k e :: rest) : StepEffect s (onTrap j k e { s with inputs := rest }) := by
  unfold onTrap
  split
  · split
    · rename_i ha
      obtain ⟨hl, c, hc, hr⟩ := (accepts_iff _ j).mp ha
      exact takeTrap_effect hi (.inl rfl) hl hc hr
    · exact .kept rfl rfl rfl id
  all_goals
    cases hc : s.cores[j]? with
    | none =>
      rw [onCore_of_none (s := State.atCore { s with inputs := rest } j) _ hc]
      exact .kept rfl rfl rfl id
    | some c =>
      rw [setPending_set (s := { s with inputs := rest }) _ e hc]
      exact .moved hc rfl id rfl id (.pending hi)

/-- A delivery: dropped, or the trap of the class's recorded event. -/
theorem onDeliver_effect {s : State} {j : Nat} {k : TrapClass} {rest : List Input}
    (hi : s.inputs = .deliver j k :: rest) : StepEffect s (onDeliver j k { s with inputs := rest }) := by
  unfold onDeliver
  split
  · rename_i c hc
    split
    · rename_i e he
      split
      · rename_i hd
        simp only [Bool.and_eq_true, Bool.not_eq_true', Core.deliverable, decide_eq_true_eq] at hd
        obtain ⟨hl, ⟨⟨hr, -⟩, -⟩, -⟩ := hd
        exact takeTrap_effect hi (.inr rfl) hl hc hr
      · exact .kept rfl rfl rfl id
    · exact .kept rfl rfl rfl id
  · exact .kept rfl rfl rfl id

theorem onDevice_effect {s : State} (addr : Word) (content : Option Byte) (rest : List Input) :
    StepEffect s (onDevice addr content { s with inputs := rest }) := by
  cases content with
  | some b => exact .kept rfl rfl rfl fun hm => Memory.insert_wf hm addr.isLt b
  | none => exact .kept rfl rfl rfl fun hm => Memory.erase_wf hm _

/-- Performing an input, effect by effect. -/
theorem perform_effect {s t : State} {i : Input} {rest : List Input} (hwf : s.cfg.wf = true)
    (hi : s.inputs = i :: rest) (h : perform i { s with inputs := rest } = .next t) : StepEffect s t := by
  cases i with
  | command j cmd wdata => exact onCommand_effect hwf hi h
  | boot j =>
    cases h
    exact onBoot_effect hi
  | trap j k e =>
    cases h
    exact onTrap_effect hi
  | deliver j k =>
    cases h
    exact onDeliver_effect hi
  | device addr content =>
    cases h
    exact onDevice_effect addr content rest
  | reset draws =>
    cases h
    exact .reset hi rfl

/-- What a step that answers a next state did. -/
theorem step_effect {s t : State} (h : step s = .next t) : s.cfg.wf = true ∧ StepEffect s t := by
  obtain ⟨hwf, -⟩ := step_next h
  refine ⟨hwf, ?_⟩
  cases hi : s.inputs with
  | cons i rest => exact perform_effect hwf hi (step_of_input hwf hi ▸ h)
  | nil =>
    rw [step_of_nothing hwf hi, autonomous] at h
    split at h
    · rename_i j hj
      obtain ⟨hl, c, hc, hr, hmin⟩ := nextBoot_some hj
      rw [bootCore_eq hc] at h
      cases h
      exact .moved hc rfl (by simp [hl]) rfl id (.boot ⟨hl, ⟨c, hc, hr⟩, .inr ⟨hi, hmin⟩⟩ hr)
    · exact absurd h (standstill_not_next s t)

/-! ### The same, core by core -/

/-- The input that moves a core addresses it. -/
theorem CoreMove.addressed {s : State} {j : Nat} {c c' : Core} (h : CoreMove s j c c') {i : Input}
    {rest : List Input} (hi : s.inputs = i :: rest) : i.core = some j := by
  cases h with
  | boot hb hr =>
    rcases hb.turn with ⟨rest', hboot⟩ | ⟨hnil, -⟩
    · rw [hi] at hboot
      cases hboot
      rfl
    · rw [hi] at hnil
      cases hnil
  | command hi' => rw [hi] at hi'; cases hi'; rfl
  | pending hi' => rw [hi] at hi'; cases hi'; rfl
  | trapped hi' hk =>
    rw [hi] at hi'
    cases hi'
    rcases hk with rfl | rfl <;> rfl
  | faulted hi' hk =>
    rw [hi] at hi'
    cases hi'
    rcases hk with rfl | rfl <;> rfl

/-- A core that is neither in RESET nor RUNNING, or is of a TERMINATED machine, has nothing but its pending traps
changed. -/
theorem CoreMove.sameButPending {s : State} {j : Nat} {c c' : Core} (h : CoreMove s j c c')
    (hstop : s.terminated = true ∨ (c.run ≠ .reset ∧ c.run ≠ .running)) : SameButPending c c' := by
  cases h with
  | boot hb hr => simp [hb.live, hr] at hstop
  | command hi hl hr he => simp [hl, hr] at hstop
  | @pending k e rest hi => cases k <;> rfl
  | trapped hi hk hl hr => simp [hl, hr] at hstop
  | faulted hi hk hl hr => simp [hl, hr] at hstop

/-- A step other than the external reset leaves each core as it was or makes one move of it. -/
theorem step_core {s t : State} {j : Nat} {c : Core} (hreset : ∀ i rest, s.inputs = i :: rest → i.isReset = false)
    (hc : s.cores[j]? = some c) (h : step s = .next t) :
    ∃ c', t.cores[j]? = some c' ∧ (c' = c ∨ CoreMove s j c c') := by
  obtain ⟨-, he⟩ := step_effect h
  cases he with
  | reset hi ht => cases hreset _ _ hi
  | kept hcores hterm hcfg hmem => exact ⟨c, by rw [hcores, hc], .inl rfl⟩
  | @moved i d d' hd hcores hterm hcfg hmem hmove =>
    by_cases hij : i = j
    · subst hij
      obtain rfl := Option.some.inj (hd.symm.trans hc)
      exact ⟨d', by rw [hcores, List.getElem?_set_self (List.getElem?_eq_some_iff.mp hc).1], .inr hmove⟩
    · exact ⟨c, by rw [hcores, List.getElem?_set_ne hij, hc], .inl rfl⟩

/-- What a step other than the external reset keeps of the machine. -/
theorem step_frame {s t : State} (hreset : ∀ i rest, s.inputs = i :: rest → i.isReset = false)
    (h : step s = .next t) :
    t.cfg = s.cfg ∧ t.cores.length = s.cores.length ∧ (s.terminated = true → t.terminated = true) ∧
      (Memory.wf s.mem → Memory.wf t.mem) := by
  obtain ⟨-, he⟩ := step_effect h
  cases he with
  | reset hi ht => cases hreset _ _ hi
  | kept hcores hterm hcfg hmem => exact ⟨hcfg, by rw [hcores], fun ht => hterm.trans ht, hmem⟩
  | moved hc hcores hterm hcfg hmem hmove => exact ⟨hcfg, by rw [hcores, List.length_set], hterm, hmem⟩

/-- The core a step other than the external reset leaves at a place was there before. -/
theorem step_core_of_next {s t : State} {j : Nat} {c' : Core}
    (hreset : ∀ i rest, s.inputs = i :: rest → i.isReset = false) (hc' : t.cores[j]? = some c')
    (h : step s = .next t) : ∃ c, s.cores[j]? = some c ∧ (c' = c ∨ CoreMove s j c c') := by
  obtain ⟨-, hlen, -, -⟩ := step_frame hreset h
  have hlt : j < s.cores.length := hlen ▸ (List.getElem?_eq_some_iff.mp hc').1
  obtain ⟨d', hd', hmove⟩ := step_core hreset (List.getElem?_eq_getElem hlt) h
  obtain rfl := Option.some.inj (hd'.symm.trans hc')
  exact ⟨_, List.getElem?_eq_getElem hlt, hmove⟩

end Sys2Proof.Machine
end

section
/-! SUPPORT. The invariants of the machine: a core keeps its own in every move, and the reset establishes them. -/

namespace Sys2Proof.Machine

/-- The invariant of a core reads nothing of the machine but its configuration. -/
theorem coreInv_congr {s t : State} {j : Nat} {c : Core} (hcfg : t.cfg = s.cfg) (h : CoreInv s j c) :
    CoreInv t j c := by
  have hid : t.coreId j = s.coreId j := by rw [State.coreId, State.coreId, hcfg]
  exact ⟨hcfg ▸ h.caches, hcfg ▸ h.width, hid ▸ h.primary, h.quiet, h.once, hid ▸ h.reported⟩

/-- A core that changes neither its caches, nor its run state, nor its records, nor pcWritten keeps its invariant. -/
theorem coreInv_of_same {s : State} {j : Nat} {c c' : Core} (h : CoreInv s j c) (hcaches : c'.caches = c.caches)
    (hrun : c'.run = c.run) (hdiag : c'.diag = c.diag) (hpc : c'.pcWritten = c.pcWritten) : CoreInv s j c' where
  caches := hcaches ▸ h.caches
  width n d v hd hv := h.width n d v hd (by rw [← hv, Core.cache, Core.cache, hcaches])
  primary := by rw [hrun, hpc]; exact h.primary
  quiet := by rw [hrun, hdiag]; exact h.quiet
  once := hdiag ▸ h.once
  reported := by rw [hrun, hdiag]; exact h.reported

/-- A RUNNING core is the primary one, with no record yet. -/
theorem CoreInv.of_running {s : State} {j : Nat} {c : Core} (h : CoreInv s j c) (hr : c.run = .running) :
    s.coreId j = 0 ∧ c.pcWritten = true ∧ c.diag = [] :=
  ⟨(h.primary (.inl hr)).1, (h.primary (.inl hr)).2, h.quiet (by rw [hr]; decide)⟩

/-- A primary core that stops with at most one record keeps its invariant. -/
theorem coreInv_of_primary {s : State} {j : Nat} {c c' : Core} (h : CoreInv s j c) (hid : s.coreId j = 0)
    (hpc : c'.pcWritten = true) (hlen : c'.caches.length = c.caches.length)
    (hwidth : ∀ n d v, s.cfg.ht[n]? = some d → c'.cache n = some v → c.cache n = some v ∨ v.toNat < 2 ^ d.width)
    (hquiet : c'.run ≠ .halted → c'.diag = []) (honce : c'.diag.length ≤ 1) : CoreInv s j c' where
  caches := hlen.trans h.caches
  width n d v hd hv := (hwidth n d v hd hv).elim (h.width n d v hd) id
  primary _ := ⟨hid, hpc⟩
  quiet := hquiet
  once := honce
  reported _ hne := absurd hid hne

/-- Every move of a core keeps its invariant. -/
theorem CoreMove.keeps_coreInv {s : State} {j : Nat} {c c' : Core} (hmove : CoreMove s j c c')
    (h : CoreInv s j c) : CoreInv s j c' := by
  cases hmove with
  | boot hb hr =>
    have hdiag : c.diag = [] := h.quiet (by rw [hr]; decide)
    have hwidth : ∀ n d v, s.cfg.ht[n]? = some d → (c.booted s j).cache n = some v → c.cache n = some v :=
      fun n d v _ hv => by rwa [Core.cache, Core.booted_caches] at hv
    by_cases hid : s.coreId j = 0
    · obtain ⟨hrun, hkept⟩ := Core.booted_of_primary hid c
      exact coreInv_of_primary h hid (by simp) (by simp) (fun n d v hd hv => .inl (hwidth n d v hd hv))
        (fun _ => hkept.trans hdiag) (by simp [hkept, hdiag])
    · obtain ⟨hrun, hreport⟩ := Core.booted_of_secondary hid c
      rw [hdiag, List.nil_append] at hreport
      exact ⟨by simp [h.caches], fun n d v hd hv => h.width n d v hd (hwidth n d v hd hv), by simp [hrun],
        by simp [hrun], by simp [hreport], fun _ _ => hreport⟩
  | command hi hl hr he =>
    obtain ⟨hid, hpc, hdiag⟩ := h.of_running hr
    refine coreInv_of_primary h hid (he.registers.pcWritten.trans hpc) he.caches he.width (fun hne => ?_) ?_
    · rcases he.report with ⟨hsame, -⟩ | ⟨hhalted, -⟩
      · rw [hsame, hdiag]
      · exact absurd hhalted hne
    · rcases he.report with ⟨hsame, -⟩ | ⟨-, r, happend⟩
      · simp [hsame, hdiag]
      · simp [happend, hdiag]
  | pending hi => exact coreInv_of_same h (by simp) (by simp) (by simp) (by simp)
  | trapped hi hk hl hr =>
    obtain ⟨hid, hpc, hdiag⟩ := h.of_running hr
    exact coreInv_of_primary h hid rfl rfl (fun _ _ _ _ hv => .inl hv) (fun hne => absurd rfl hne)
      (by simp [Core.trapped, hdiag])
  | faulted hi hk hl hr =>
    obtain ⟨hid, hpc, hdiag⟩ := h.of_running hr
    exact coreInv_of_primary h hid hpc rfl (fun _ _ _ _ hv => .inl hv) (fun _ => hdiag) (by simp [hdiag])

/-! ### The reset -/

theorem cache_reset (nh : Nat) (d : Draw) (h : Nat) : (Core.reset nh d).cache h = none := by
  simp only [Core.cache, Core.reset, List.getElem?_replicate]
  split <;> rfl

/-- A core in reset meets the invariant, whatever its draws (R31). -/
theorem coreInv_reset (s : State) (j : Nat) (d : Draw) : CoreInv s j (Core.reset s.cfg.nh d) where
  caches := List.length_replicate
  width h _ v _ hv := by rw [cache_reset] at hv; cases hv
  primary := by simp [Core.reset]
  quiet _ := rfl
  once := Nat.zero_le 1
  reported := nofun

/-- After the external reset each core is in reset with some draws (R160). -/
theorem externalReset_core {draws : List Draw} {s : State} {j : Nat} {c : Core}
    (h : (externalReset draws s).cores[j]? = some c) : ∃ d, c = Core.reset s.cfg.nh d := by
  simp only [externalReset, List.getElem?_map, Option.map_eq_some_iff] at h
  obtain ⟨i, -, rfl⟩ := h
  exact ⟨_, rfl⟩

theorem externalReset_inv {draws : List Draw} {s : State} (hwf : s.cfg.wf = true) (hm : Memory.wf s.mem) :
    Inv (externalReset draws s) where
  wf := hwf
  cores := by simp [externalReset]
  core j c hc := by
    obtain ⟨d, rfl⟩ := externalReset_core hc
    exact coreInv_reset (externalReset draws s) j d
  mem := hm

theorem busHistory_reset (nh : Nat) (d : Draw) : (Core.reset nh d).busHistory = [] := rfl

theorem externalReset_quiet (draws : List Draw) (s : State) : SecondariesQuiet (externalReset draws s) := by
  intro j c hc _
  obtain ⟨d, rfl⟩ := externalReset_core hc
  exact ⟨.inl rfl, busHistory_reset _ _⟩

/-- A boot transition issues no bus access (R121). -/
theorem booted_busHistory (s : State) (j : Nat) (c : Core) : (c.booted s j).busHistory = c.busHistory := by
  rw [Core.busHistory, Core.booted_accesses, List.filter_append, List.filter_replicate]
  simp [Access.isBus, Core.busHistory]

/-- Every move of a secondary core leaves it before or past the gate and off the bus. -/
theorem CoreMove.keeps_quiet {s : State} {j : Nat} {c c' : Core} (hmove : CoreMove s j c c')
    (hid : s.coreId j ≠ 0) (h : (c.run = .reset ∨ c.run = .halted) ∧ c.busHistory = []) :
    (c'.run = .reset ∨ c'.run = .halted) ∧ c'.busHistory = [] := by
  obtain ⟨hrun, hbus⟩ := h
  cases hmove with
  | boot hb hr => exact ⟨.inr (Core.booted_of_secondary hid c).1, by rw [booted_busHistory, hbus]⟩
  | command hi hl hr he => simp [hr] at hrun
  | pending hi => exact ⟨by simpa using hrun, by simpa [Core.busHistory] using hbus⟩
  | trapped hi hk hl hr => simp [hr] at hrun
  | faulted hi hk hl hr => simp [hr] at hrun

/-- A step is the external reset, or not one. -/
theorem isReset_or_not (s : State) :
    (∃ draws rest, s.inputs = .reset draws :: rest) ∨ ∀ i rest, s.inputs = i :: rest → i.isReset = false := by
  match hi : s.inputs with
  | [] => exact .inr nofun
  | .reset draws :: rest => exact .inl ⟨draws, rest, rfl⟩
  | .command _ _ _ :: _ | .boot _ :: _ | .trap _ _ _ :: _ | .deliver _ _ :: _ | .device _ _ :: _ =>
    exact .inr fun i rest h => by cases h; rfl

end Sys2Proof.Machine
end

section
/-! CERTIFICATES. The invariants. -/

namespace Sys2Proof.Proofs

open Sys2Proof.Machine

/-- Settles O48: every core of the state after reset is in reset. -/
theorem resetMeetsTheInvariants : Obligations.ResetMeetsTheInvariants := by
  have hcore : ∀ j c, State.reset.cores[j]? = some c → c = Core.reset Config.cfgT.nh Draw.chosen := fun j c hc =>
    List.eq_of_mem_replicate (List.mem_of_getElem? hc)
  refine ⟨⟨by decide, rfl, fun j c hc => ?_, ⟨.nil, nofun⟩⟩, fun j c hc _ => ?_⟩
  · rw [hcore j c hc]
    exact coreInv_reset State.reset j Draw.chosen
  · rw [hcore j c hc]
    exact ⟨.inl rfl, busHistory_reset _ _⟩

/-- Settles O49: every move of a core keeps its invariant, and the external reset establishes it anew. -/
theorem stepKeepsTheInvariant : Obligations.StepKeepsTheInvariant := by
  intro s t hinv h
  rcases isReset_or_not s with ⟨draws, rest, hi⟩ | hreset
  · rw [step_of_input hinv.wf hi] at h
    cases h
    exact externalReset_inv hinv.wf hinv.mem
  · obtain ⟨hcfg, hlen, -, hmem⟩ := step_frame hreset h
    refine ⟨hcfg ▸ hinv.wf, ?_, fun j c' hc' => coreInv_congr hcfg ?_, hmem hinv.mem⟩
    · rw [hlen, hcfg, hinv.cores]
    · obtain ⟨c, hc, rfl | hmove⟩ := step_core_of_next hreset hc' h
      · exact hinv.core j c' hc
      · exact hmove.keeps_coreInv (hinv.core j c hc)

/-- Settles O50: the moves open to a secondary core are its boot and the recording of a trap event. -/
theorem stepKeepsSecondariesQuiet : Obligations.StepKeepsSecondariesQuiet := by
  intro s t hwf hq h
  rcases isReset_or_not s with ⟨draws, rest, hi⟩ | hreset
  · rw [step_of_input hwf hi] at h
    cases h
    exact externalReset_quiet draws _
  · intro j c' hc' hid
    obtain ⟨hcfg, -⟩ := step_frame hreset h
    rw [State.coreId, hcfg] at hid
    obtain ⟨c, hc, rfl | hmove⟩ := step_core_of_next hreset hc' h
    · exact hq j c' hc hid
    · exact hmove.keeps_quiet hid (hq j c hc hid)

end Sys2Proof.Proofs
end

section
/-! SUPPORT. What every move of a core keeps: its histories, its stack pointers, and the rule of its records. -/

namespace Sys2Proof.Machine

/-- Every move of a core lets its histories grow at the end and leaves its pending bits set. -/
theorem CoreMove.grows {s : State} {j : Nat} {c c' : Core} (h : CoreMove s j c c') :
    c.diag <+: c'.diag ∧ c.accesses <+: c'.accesses ∧ c.exitReqs <+: c'.exitReqs ∧
      ∀ k, (c.pending k).isSome = true → (c'.pending k).isSome = true := by
  cases h with
  | boot hb hr =>
    refine ⟨?_, by simp, by simp, by simp⟩
    exact List.prefix_append _ _
  | command hi hl hr he =>
    refine ⟨?_, he.accesses, he.exitReqs, fun k hk => ?_⟩
    · rcases he.report with ⟨hsame, -⟩ | ⟨-, r, happend⟩
      · rw [hsame]
      · rw [happend]
        exact List.prefix_append _ _
    · have hsame : c'.pending k = c.pending k := by
        cases k <;> simp only [Core.pending, he.pendIrq, he.pendFiq, he.pendSError]
      rwa [hsame]
  | @pending k e rest hi =>
    refine ⟨by simp, by simp, by simp, fun q hq => ?_⟩
    cases k <;> cases q <;> simp_all [Core.pending, Core.setPending]
  | trapped hi hk hl hr =>
    exact ⟨List.prefix_append _ _, List.prefix_append _ _, List.prefix_refl _, fun k hk => by cases k <;> exact hk⟩
  | faulted hi hk hl hr =>
    exact ⟨List.prefix_refl _, List.prefix_refl _, List.prefix_refl _, fun k hk => by cases k <;> exact hk⟩

/-- A move that changes a core's records appends one and halts it. -/
theorem CoreMove.report {s : State} {j : Nat} {c c' : Core} (h : CoreMove s j c c') (hd : c'.diag ≠ c.diag) :
    c'.run = .halted ∧ ∃ r, c'.diag = c.diag ++ [r] := by
  cases h with
  | boot hb hr =>
    by_cases hid : s.coreId j = 0
    · exact absurd (Core.booted_of_primary hid c).2 hd
    · exact ⟨(Core.booted_of_secondary hid c).1, _, (Core.booted_of_secondary hid c).2⟩
  | command hi hl hr he =>
    rcases he.report with ⟨hsame, -⟩ | hreport
    · exact absurd hsame hd
    · exact hreport
  | pending hi => exact absurd (by simp) hd
  | trapped hi hk hl hr => exact ⟨rfl, _, rfl⟩
  | faulted hi hk hl hr => exact absurd rfl hd

/-- Only a boot writes a stack pointer, and only a boot or a trap with its report writes ARG0 or pc. -/
theorem CoreMove.registers {s : State} {j : Nat} {c c' : Core} (h : CoreMove s j c c') (hb : ¬ BootsNext s j) :
    SameRegisters c c' ∨
      (c'.sp0 = c.sp0 ∧ c'.sp0Written = c.sp0Written ∧ c'.sp1 = c.sp1 ∧ c'.sp1Written = c.sp1Written ∧
        ((∃ k e rest, s.inputs = .trap j k e :: rest) ∨ (∃ k rest, s.inputs = .deliver j k :: rest)) ∧
        ∃ g k elr esr far, c'.diag = c.diag ++ [.trapReport g k elr esr far]) := by
  cases h with
  | boot hb' hr => exact absurd hb' hb
  | command hi hl hr he => exact .inl he.registers
  | pending hi => exact .inl (by constructor <;> simp)
  | trapped hi hk hl hr =>
    refine .inr ⟨rfl, rfl, rfl, rfl, ?_, _, _, _, _, _, rfl⟩
    rcases hk with rfl | rfl
    · exact .inl ⟨_, _, _, hi⟩
    · exact .inr ⟨_, _, hi⟩
  | faulted hi hk hl hr => exact .inl ⟨rfl, rfl, rfl, rfl, rfl, rfl, rfl, rfl⟩

theorem sameButPending_refl (c : Core) : SameButPending c c := rfl

end Sys2Proof.Machine
end

section
/-! CERTIFICATES. The whole-machine rules: what a step leaves of the cores (10_state.md R10 to R16, R27 to R29,
42_system_ops.md R112, 60_exceptions.md R150, R151). -/

namespace Sys2Proof.Proofs

open Sys2Proof.Machine

/-- Settles O51: a moved core is the one its input addresses. -/
theorem coresDoNotInterfere : Obligations.CoresDoNotInterfere := by
  intro s t i rest j hi hreset hne h
  have hreset' : ∀ i' rest', s.inputs = i' :: rest' → i'.isReset = false := fun i' rest' hi' => by
    rw [hi] at hi'
    cases hi'
    exact hreset
  obtain ⟨-, hlen, -⟩ := step_frame hreset' h
  cases hc : s.cores[j]? with
  | none =>
    rw [List.getElem?_eq_none_iff] at hc ⊢
    rwa [hlen]
  | some c =>
    obtain ⟨c', hc', rfl | hmove⟩ := step_core hreset' hc h
    · exact hc'
    · exact absurd (hmove.addressed hi) hne

/-- Settles O52: of the moves of a core only the recording of a trap event is open to a halted one. -/
theorem haltedIsAbsorbing : Obligations.HaltedIsAbsorbing := by
  intro s t j c hreset hc hrun h
  obtain ⟨c', hc', rfl | hmove⟩ := step_core hreset hc h
  · exact ⟨c', hc', sameButPending_refl c'⟩
  · exact ⟨c', hc', hmove.sameButPending (.inr (by simp [hrun]))⟩

/-- Settles O53: of the moves of a core only the recording of a trap event is open once TERMINATED. -/
theorem terminatedStopsEveryCore : Obligations.TerminatedStopsEveryCore := by
  intro s t j c hreset hterm hc h
  obtain ⟨-, -, hkept, -⟩ := step_frame hreset h
  refine ⟨hkept hterm, ?_⟩
  obtain ⟨c', hc', rfl | hmove⟩ := step_core hreset hc h
  · exact ⟨c', hc', sameButPending_refl c'⟩
  · exact ⟨c', hc', hmove.sameButPending (.inl hterm)⟩

/-- Settles O54: a step replaces cores in place, or all of them at the external reset. -/
theorem configurationIsConstant : Obligations.ConfigurationIsConstant := by
  intro s t hlen h
  rcases isReset_or_not s with ⟨draws, rest, hi⟩ | hreset
  · obtain ⟨hwf, -⟩ := step_next h
    rw [step_of_input hwf hi] at h
    cases h
    exact ⟨rfl, by simp [externalReset]⟩
  · obtain ⟨hcfg, hlen', -, -⟩ := step_frame hreset h
    exact ⟨hcfg, hlen'.trans hlen⟩

/-- Settles O55: every move of a core appends to its histories and clears no pending bit. -/
theorem historiesOnlyGrow : Obligations.HistoriesOnlyGrow := by
  intro s t j c hreset hc h
  obtain ⟨c', hc', rfl | hmove⟩ := step_core hreset hc h
  · exact ⟨c', hc', List.prefix_refl _, List.prefix_refl _, List.prefix_refl _, fun _ hk => hk⟩
  · exact ⟨c', hc', hmove.grows⟩

/-- Settles O56: of the moves of a core those that change its records append one and halt it. -/
theorem fatalRecordsHaltTheCore : Obligations.FatalRecordsHaltTheCore := by
  intro s t j c c' hreset hc hc' h hd
  obtain ⟨k, hk, rfl | hmove⟩ := step_core hreset hc h
  · rw [hc'] at hk
    cases hk
    exact absurd rfl hd
  · obtain rfl := Option.some.inj (hk.symm.trans hc')
    exact hmove.report hd

/-- Settles O57: of the moves of a core only its boot writes a stack pointer, and only a trap besides writes ARG0 or pc. -/
theorem stackPointersChangeOnlyAtBoot : Obligations.StackPointersChangeOnlyAtBoot := by
  intro s t j c c' hreset hc hc' h hboot
  obtain ⟨k, hk, hmove⟩ := step_core hreset hc h
  obtain rfl := Option.some.inj (hk.symm.trans hc')
  have hregs : SameRegisters c k ∨ _ := hmove.elim
    (fun hsame => .inl (hsame ▸ ⟨rfl, rfl, rfl, rfl, rfl, rfl, rfl, rfl⟩)) fun hmove => hmove.registers hboot
  rcases hregs with hsame | ⟨hsp0, hsp0w, hsp1, hsp1w, htrap⟩
  · exact ⟨hsame.sp0, hsame.sp0Written, hsame.sp1, hsame.sp1Written, .inl hsame⟩
  · exact ⟨hsp0, hsp0w, hsp1, hsp1w, .inr htrap⟩

end Sys2Proof.Proofs
end

section
/-! SUPPORT. Single steps: the command port, boot, traps, and the end of a run. -/

namespace Sys2Proof.Machine

/-! ### The command port -/

theorem runPort_of_decode {s : State} {j : Nat} {c : Core} {cmd : CmdWord} {i : Instr} (wdata : Word)
    (hc : s.cores[j]? = some c) (hd : decode cmd = .ok i) :
    runPort (s.present j cmd wdata) = exec i (s.present j cmd wdata) := by
  rw [runPort, State.core_eq (present_core cmd wdata hc), hd]

theorem runPort_of_error {s : State} {j : Nat} {c : Core} {cmd : CmdWord} (wdata : Word)
    (hc : s.cores[j]? = some c) (hd : ∀ i, decode cmd ≠ .ok i) :
    runPort (s.present j cmd wdata) = raiseFatal .badCommand (s.present j cmd wdata) := by
  rw [runPort, State.core_eq (present_core cmd wdata hc)]
  split
  · rename_i i hi
    exact absurd hi (hd i)
  · rfl

/-! ### Boot -/

theorem nextBoot_eq_some {s : State} {j : Nat} {c : Core} (hl : s.terminated = false) (hc : s.cores[j]? = some c)
    (hr : c.run = .reset) (hmin : ∀ i d, i < j → s.cores[i]? = some d → d.run ≠ .reset) : s.nextBoot = some j := by
  obtain ⟨hlt, rfl⟩ := List.getElem?_eq_some_iff.mp hc
  rw [State.nextBoot, hl]
  refine List.findIdx?_eq_some_iff_getElem.mpr ⟨hlt, by simp [hr], fun i hi => ?_⟩
  simpa using hmin i _ hi (List.getElem?_eq_getElem (Nat.lt_trans hi hlt))

theorem nextBoot_eq_none_iff (s : State) :
    s.nextBoot = none ↔ s.terminated = true ∨ ∀ c ∈ s.cores, c.run ≠ .reset := by
  unfold State.nextBoot
  cases s.terminated <;> simp

/-- The boot step of a core in RESET (R120, R121). -/
theorem step_boot {s : State} {j : Nat} {c : Core} {rest : List Input} (hwf : s.cfg.wf = true)
    (hi : s.inputs = .boot j :: rest) (hc : s.cores[j]? = some c) (hr : c.run = .reset)
    (hl : s.terminated = false) :
    step s = .next { s with inputs := rest, cur := j, cores := s.cores.set j (c.booted s j) } := by
  have hb : ({ s with inputs := rest } : State).canBoot j = true := (canBoot_iff _ j).mpr ⟨hl, c, hc, hr⟩
  rw [step_of_input hwf hi, perform, onBoot, if_pos hb, bootCore_eq (s := { s with inputs := rest }) hc]
  rfl

theorem dedicatedStack_iff (c : Core) : c.dedicatedStack = true ↔ c.spsel = 1 := by
  have : ∀ b : BitVec 1, b.getLsbD 0 = true ↔ b = 1 := by decide
  exact this c.spsel

/-- The boot sequence puts the stack top in the selected stack pointer, and the other keeps what it held (R121). -/
theorem booted_stackPointers (s : State) (j : Nat) (c : Core) :
    (c.spsel = 1 → (c.booted s j).sp1 = stackTop s.cfg (s.coreId j) ∧ (c.booted s j).sp1Written = true ∧
      (c.booted s j).sp0 = c.sp0 ∧ (c.booted s j).sp0Written = c.sp0Written) ∧
    (c.spsel ≠ 1 → (c.booted s j).sp0 = stackTop s.cfg (s.coreId j) ∧ (c.booted s j).sp0Written = true ∧
      (c.booted s j).sp1 = c.sp1 ∧ (c.booted s j).sp1Written = c.sp1Written) := by
  simp only [ne_eq, ← dedicatedStack_iff]
  unfold Core.booted Core.setSP
  cases s.cfg.passCoreid <;> cases c.dedicatedStack <;> simp

/-- The id is passed in ARG0 where the configuration says so (R121). -/
theorem booted_arg0 (s : State) (j : Nat) (c : Core) :
    (s.cfg.passCoreid = true → (c.booted s j).arg0 = s.coreId j ∧ (c.booted s j).arg0Written = true) ∧
    (s.cfg.passCoreid = false → (c.booted s j).arg0 = c.arg0 ∧ (c.booted s j).arg0Written = c.arg0Written) := by
  unfold Core.booted
  cases s.cfg.passCoreid <;> simp

/-- The registers the boot sequence leaves (R121). -/
theorem booted_bootRegisters (s : State) (j : Nat) (c : Core) :
    BootRegisters s.cfg (s.coreId j) c (c.booted s j) := by
  obtain ⟨hsp1, hsp0⟩ := booted_stackPointers s j c
  obtain ⟨hpass, hkeep⟩ := booted_arg0 s j c
  have hsel : (c.booted s j).dedicatedStack = c.dedicatedStack := by
    rw [Core.dedicatedStack, (Core.booted_sameSys s j c).spsel, Core.dedicatedStack]
  refine ⟨rfl, rfl, ?_, fun h => ?_, fun h => ?_, hpass, hkeep⟩
  · rw [Core.activeSP, hsel]
    by_cases h : c.spsel = 1
    · obtain ⟨hvalue, hwritten, -⟩ := hsp1 h
      rw [if_pos ((dedicatedStack_iff c).mpr h), hwritten, hvalue]
      rfl
    · obtain ⟨hvalue, hwritten, -⟩ := hsp0 h
      rw [if_neg (mt (dedicatedStack_iff c).mp h), hwritten, hvalue]
      rfl
  · obtain ⟨hvalue, -, hother⟩ := hsp1 h
    exact ⟨hvalue, hother⟩
  · obtain ⟨hvalue, -, hother⟩ := hsp0 (by rw [h]; decide)
    exact ⟨hvalue, hother⟩

/-! ### Traps -/

theorem vectorDefined_iff (cfg : Config) (c : Core) :
    c.vectorDefined cfg = true ↔ c.vbarWritten = true ∧ c.vbar = cfg.vtBase := by
  simp [Core.vectorDefined]

/-- The tag the stub puts in ARG0, as a number (R70, R143). -/
theorem trapTag_value (cfg : Config) (g : Group) (k : TrapClass) :
    BitVec.setWidth 64 (trapTag cfg g k) = BitVec.ofNat 64 ((groupCode cfg g).toNat * 16 + (classCode cfg k).toNat) := by
  have : ∀ a b : BitVec 4, BitVec.setWidth 64 ((BitVec.setWidth 8 a <<< 4) ||| BitVec.setWidth 8 b)
      = BitVec.ofNat 64 (a.toNat * 16 + b.toNat) := by decide
  exact this _ _

/-- Taking a trap whose vector is defined is the whole effect of its delivery (R140 to R144). -/
theorem takeTrap_trapOutcome {s : State} {j : Nat} {c : Core} (k : TrapClass) (e : TrapRecord)
    (hc : s.cores[j]? = some c) (hv : c.vectorDefined s.cfg = true) :
    TrapOutcome s j c k e (.next (takeTrap k e (s.atCore j))) := by
  rw [takeTrap_eq k e hc, if_pos hv]
  simp only [TrapOutcome, Core.trapped, Core.stub, Core.enterTrap, trapTag_value]
  rfl

/-- A synchronous trap is taken where the core accepts it, and dropped elsewhere (R137). -/
theorem step_synchronous {s : State} {j : Nat} {e : TrapRecord} {rest : List Input} (hwf : s.cfg.wf = true)
    (hi : s.inputs = .trap j .synchronous e :: rest) :
    step s = .next (if s.accepts j then takeTrap .synchronous e (State.atCore { s with inputs := rest } j)
      else { s with inputs := rest }) := by
  rw [step_of_input hwf hi]
  rfl

/-- A delivery is taken where the class is deliverable, and dropped elsewhere (R138). -/
theorem step_deliver {s : State} {j : Nat} {c : Core} {k : TrapClass} {rest : List Input} (hwf : s.cfg.wf = true)
    (hi : s.inputs = .deliver j k :: rest) (hc : s.cores[j]? = some c) :
    (∀ e, c.pending k = some e → s.terminated = false → c.deliverable k = true →
      step s = .next (takeTrap k e (State.atCore { s with inputs := rest } j))) ∧
    (s.terminated = true ∨ c.deliverable k = false → step s = .next { s with inputs := rest }) := by
  have hstep : step s = .next (onDeliver j k { s with inputs := rest }) := step_of_input hwf hi
  rw [hstep, onDeliver]
  simp only [hc]
  refine ⟨fun e he hl hd => by simp [he, hl, hd], fun hno => ?_⟩
  cases c.pending k with
  | none => rfl
  | some e => rcases hno with hno | hno <;> simp [hno]

/-- When an asynchronous class is deliverable, in the bits of MASK and TRAPCTL (R138). -/
theorem deliverable_iff {c : Core} {k : TrapClass} {maskBit routeBit : Nat}
    (hk : (k, maskBit, routeBit) ∈ [(TrapClass.irq, 7, 1), (TrapClass.fiq, 6, 2), (TrapClass.serror, 8, 3)]) :
    c.deliverable k = true ↔ c.run = .running ∧ (c.pending k).isSome = true ∧
      c.maskValue.getLsbD maskBit = false ∧ c.trapctl.getLsbD routeBit = true := by
  simp only [List.mem_cons, Prod.mk.injEq, List.not_mem_nil, or_false] at hk
  rcases hk with ⟨rfl, rfl, rfl⟩ | ⟨rfl, rfl, rfl⟩ | ⟨rfl, rfl, rfl⟩ <;>
    simp [Core.deliverable, Core.masked, Core.routed, and_assoc]

theorem pending_of_deliverable {c : Core} {k : TrapClass} (h : c.deliverable k = true) :
    (c.pending k).isSome = true := by
  simp only [Core.deliverable, Bool.and_eq_true] at h
  obtain ⟨⟨⟨-, hpending⟩, -⟩, -⟩ := h
  exact hpending

/-- A pending event is read back after it is recorded, and the other classes keep theirs (R138). -/
theorem setPending_pending (c : Core) {k : TrapClass} (hk : k ≠ .synchronous) (e : TrapRecord) :
    (c.setPending k e).pending k = some e ∧ ∀ q, q ≠ k → (c.setPending k e).pending q = c.pending q := by
  cases k with
  | synchronous => exact absurd rfl hk
  | irq | fiq | serror => exact ⟨rfl, fun q hq => by cases q <;> simp_all [Core.pending, Core.setPending]⟩

end Sys2Proof.Machine
end

section
/-! CERTIFICATES. The step and the command port, boot and traps. -/

namespace Sys2Proof.Proofs

open Sys2Proof.Machine

/-- Settles O5: the step presents the command and runs the port, where the word decodes. -/
theorem stepRunsTheDecodedCommand : Obligations.StepRunsTheDecodedCommand := by
  intro s j cmd wdata rest i hwf hi ha hd
  obtain ⟨-, c, hc, -⟩ := (accepts_iff s j).mp ha
  rw [step_command hwf hi ha]
  exact runPort_of_decode (s := { s with inputs := rest }) wdata hc hd

/-- Settles O6: no row covers a word that does not decode, and an index out of range is the first check to fail. -/
theorem illegalWordsAndIndicesAreFatal : Obligations.IllegalWordsAndIndicesAreFatal := by
  refine ⟨?_, by decide, ?_, ?_⟩
  · intro s j c cmd wdata rest hwf hi hc hr hl hrows
    have hillegal : ∀ i, decode cmd ≠ .ok i := fun i hd => by
      have hcovers := row_covers_of_decode hd
      rw [hrows _ (row_mem_opcodeMap i)] at hcovers
      cases hcovers
    rw [step_command hwf hi ((accepts_iff s j).mpr ⟨hl, c, hc, hr⟩),
      runPort_of_error (s := { s with inputs := rest }) wdata hc hillegal, raiseFatal,
      State.onCore_eq_set _ (present_core (s := { s with inputs := rest }) cmd wdata hc)]
    simp only [FatalOutcome, present_cores (s := { s with inputs := rest }) cmd wdata hc, State.present_cur,
      List.set_set]
    rfl
  · intro s c i h hr hi hh
    refine (fatalIsTheFirstFailingCheck i s c .badIndex hr).mpr ?_
    have hnone : s.cfg.ht[h]? = none := List.getElem?_eq_none hh
    simp [firstFailure, hi, hnone]
  · intro s c a pin hr ha
    have hnone : s.cfg.pt[a]? = none := List.getElem?_eq_none ha
    constructor <;> refine (fatalIsTheFirstFailingCheck _ s c .badIndex hr).mpr ?_ <;>
      simp [firstFailure, handleIndex, hnone]

/-- Settles O7: the input is used up and the command dropped. -/
theorem unacceptedCommandChangesNothing : Obligations.UnacceptedCommandChangesNothing := by
  intro s j cmd wdata rest hwf hi ha
  have ha' : ({ s with inputs := rest } : State).accepts j = false := ha
  rw [step_of_input hwf hi, perform, onCommand, ha']
  rfl

/-- Settles O36: the boot transition as one replacement of the core, read off field by field. -/
theorem bootTransition : Obligations.BootTransition := by
  intro s j c rest hwf hi hc hr hl
  refine ⟨_, c.booted s j, step_boot hwf hi hc hr hl, List.getElem?_set_self (List.getElem?_eq_some_iff.mp hc).1,
    booted_bootRegisters s j c, fun h => Core.booted_of_primary h c, fun h => Core.booted_of_secondary h c,
    Core.booted_accesses s j c, Core.booted_sameSys s j c, Core.booted_caches s j c, rfl, hl, rfl, fun i hij => ?_⟩
  exact List.getElem?_set_ne hij.symm

/-- Settles O37: the lowest core in RESET is the one the machine boots by itself. -/
theorem bootRunsWithNothingPresented : Obligations.BootRunsWithNothingPresented := by
  intro s j c hwf hi hl hc hr hmin
  rw [step_boot (s := { s with inputs := [.boot j] }) hwf rfl hc hr hl, step_of_nothing hwf hi, autonomous,
    nextBoot_eq_some hl hc hr hmin]
  simp only [bootCore_eq hc, hi]
  rfl

/-- Settles O39: SPSEL bit 0 is the bit that selects the dedicated stack. -/
theorem groupSelection : Obligations.GroupSelection := by
  intro c
  have hsel : c.spselValue.getLsbD 0 = c.dedicatedStack := by
    simp [Core.spselValue, Core.dedicatedStack]
  rw [hsel]
  refine ⟨fun h => ?_, fun h => ?_, fun h => ?_, fun h => ?_⟩ <;> simp only [Core.trapGroup, Core.lowerIs64, h] <;> rfl

/-- Settles O42: an accepting core takes the trap, and a defined vector makes that the whole delivery. -/
theorem synchronousTrapIsDelivered : Obligations.SynchronousTrapIsDelivered := by
  intro s j c e rest hwf hi hc hr hl hw hv
  rw [step_synchronous hwf hi, if_pos ((accepts_iff s j).mpr ⟨hl, c, hc, hr⟩)]
  exact takeTrap_trapOutcome (s := { s with inputs := rest }) .synchronous e hc
    ((vectorDefined_iff s.cfg c).mpr ⟨hw, hv⟩)

/-- Settles O43: either way of delivery comes to taking the trap. -/
theorem undefinedVectorFaults : Obligations.UndefinedVectorFaults := by
  intro s j c k e i rest hwf hi hc hr hl hv hdelivery
  have hundefined : ¬ c.vectorDefined s.cfg = true := by
    rw [vectorDefined_iff]
    rintro ⟨hw, hbase⟩
    rcases hv with hv | hv
    · rw [hw] at hv
      cases hv
    · exact hv hbase
  have htake : ∀ q f, takeTrap q f (State.atCore { s with inputs := rest } j)
      = { s with inputs := rest, cur := j, cores := s.cores.set j { c with run := .faulted } } := fun q f => by
    rw [takeTrap_eq (s := { s with inputs := rest }) q f hc, if_neg hundefined]
  rcases hdelivery with rfl | ⟨rfl, hd⟩
  · rw [step_synchronous hwf hi, if_pos ((accepts_iff s j).mpr ⟨hl, c, hc, hr⟩), htake]
  · obtain ⟨f, hf⟩ := Option.isSome_iff_exists.mp (pending_of_deliverable hd)
    rw [(step_deliver hwf hi hc).1 f hf hl hd, htake]

/-- Settles O44: the event of a core that accepts nothing is dropped. -/
theorem synchronousTrapIsDroppedElsewhere : Obligations.SynchronousTrapIsDroppedElsewhere := by
  intro s j e rest hwf hi ha
  rw [step_synchronous hwf hi, ha]
  rfl

/-- Settles O45: the event replaces the core by one with the class pending. -/
theorem asynchronousTrapBecomesPending : Obligations.AsynchronousTrapBecomesPending := by
  intro s j c k e rest hwf hi hk hc
  obtain ⟨hrecorded, hothers⟩ := setPending_pending c hk e
  refine ⟨c.setPending k e, ?_, hrecorded, hothers, by cases k <;> rfl⟩
  have hstep := setPending_set (s := { s with inputs := rest }) k e hc
  rw [step_of_input hwf hi, ← hstep]
  cases k with
  | synchronous => exact absurd rfl hk
  | irq | fiq | serror => rfl

/-- Settles O46: deliverability bit by bit, and the delivery as the taking of the recorded trap. -/
theorem deliverableClassIsDelivered : Obligations.DeliverableClassIsDelivered := by
  intro c k maskBit routeBit hk
  refine ⟨deliverable_iff hk, fun s j e rest hwf hi hc hl hw hv hp hd => ?_⟩
  rw [(step_deliver hwf hi hc).1 e hp hl hd]
  exact takeTrap_trapOutcome (s := { s with inputs := rest }) k e hc ((vectorDefined_iff s.cfg c).mpr ⟨hw, hv⟩)

/-- Settles O47: each of the reasons denies one conjunct of deliverability. -/
theorem undeliverableClassStaysPending : Obligations.UndeliverableClassStaysPending := by
  intro s j c k maskBit routeBit rest hwf hi hc hk hreason
  refine (step_deliver hwf hi hc).2 ?_
  rw [← Bool.not_eq_true, deliverable_iff hk]
  rcases hreason with h | h | h | h | h <;> simp [h]

end Sys2Proof.Proofs
end

section
/-! SUPPORT. Geometry: the vector table, the tags, packed arrays and the stack regions. -/

namespace Sys2Proof.Machine

/-! ### The vector table -/

theorem gslot_inj {g g' : Group} (h : gslot g = gslot g') : g = g' := by
  cases g <;> cases g' <;> simp [gslot] at h <;> rfl

theorem cslot_inj {k k' : TrapClass} (h : cslot k = cslot k') : k = k' := by
  cases k <;> cases k' <;> simp [cslot] at h <;> rfl

theorem cslot_lt (k : TrapClass) : cslot k < 4 := by cases k <;> decide

/-- Distinct slots have distinct offsets (R69). -/
theorem slotOffset_inj {g g' : Group} {k k' : TrapClass} (h : slotOffset g k = slotOffset g' k') :
    g = g' ∧ k = k' := by
  have hk := cslot_lt k
  have hk' := cslot_lt k'
  simp only [slotOffset] at h
  exact ⟨gslot_inj (by omega), cslot_inj (by omega)⟩

/-! ### Tags -/

theorem groupCode_inj {cfg : Config} (hwf : cfg.groupCode.wf = true) {g g' : Group}
    (h : groupCode cfg g = groupCode cfg g') : g = g' := by
  simp only [GroupCodes.wf, List.nodup_cons, List.mem_cons, List.not_mem_nil, or_false, not_or, Bool.and_eq_true,
    decide_eq_true_eq, beq_iff_eq] at hwf
  cases g <;> cases g' <;> simp_all [groupCode]

theorem classCode_inj {cfg : Config} (hwf : cfg.classCode.wf = true) {k k' : TrapClass}
    (h : classCode cfg k = classCode cfg k') : k = k' := by
  simp only [ClassCodes.wf, List.nodup_cons, List.mem_cons, List.not_mem_nil, or_false, not_or, Bool.and_eq_true,
    decide_eq_true_eq, beq_iff_eq] at hwf
  cases k <;> cases k' <;> simp_all [classCode]

theorem codes_wf {cfg : Config} (h : cfg.wf = true) : cfg.groupCode.wf = true ∧ cfg.classCode.wf = true := by
  simp only [Config.wf, Bool.and_eq_true] at h
  obtain ⟨⟨⟨⟨-, hgroup⟩, hclass⟩, -⟩, -⟩ := h
  exact ⟨hgroup, hclass⟩

/-! ### Stack regions -/

/-- The stack top does not wrap where the regions above it fit below the top of RAM (R123). -/
theorem stackTop_toNat {cfg : Config} {id : Word} (h : id.toNat * cfg.stackSize.toNat ≤ cfg.ramTop.toNat) :
    (stackTop cfg id).toNat = cfg.ramTop.toNat - id.toNat * cfg.stackSize.toNat := by
  have htop := cfg.ramTop.isLt
  rw [stackTop, BitVec.toNat_sub, BitVec.toNat_mul]
  generalize id.toNat * cfg.stackSize.toNat = used at *
  omega

/-! ### Packed arrays -/

theorem fieldsPerWord_mul_le (p : PackedArray) : fieldsPerWord p * p.sz ≤ 32 := Nat.div_mul_le_self 32 p.sz

/-- An element lies inside the elements of its word (R100). -/
theorem bitOffset_add_le {p : PackedArray} (h : p.wf = true) (pin : Nat) :
    bitOffset p pin + p.sz ≤ fieldsPerWord p * p.sz := by
  obtain ⟨hsz, hle, -⟩ := packed_facts h
  have hpos : 0 < fieldsPerWord p := Nat.div_pos hle hsz
  have hmod : pin % fieldsPerWord p + 1 ≤ fieldsPerWord p := Nat.mod_lt _ hpos
  calc bitOffset p pin + p.sz = (pin % fieldsPerWord p + 1) * p.sz := by rw [bitOffset]; ring
    _ ≤ fieldsPerWord p * p.sz := Nat.mul_le_mul_right _ hmod

/-- A packed word is 4-byte aligned (R54). -/
theorem wordAddr_aligned {p : PackedArray} (h : p.wf = true) (pin : Nat) : (wordAddr p pin).toNat % 4 = 0 := by
  obtain ⟨-, -, hbase, -⟩ := packed_facts h
  rw [wordAddr_toNat]
  omega

end Sys2Proof.Machine
end

section
/-! CERTIFICATES. Geometry, the external reset and the end of a run. -/

namespace Sys2Proof.Proofs

open Sys2Proof.Machine

/-- Settles O24: an element lies below the end of its word, and the word of a legal pin below the last one. -/
theorem packedElementsLieInTheirWords : Obligations.PackedElementsLieInTheirWords := by
  intro cfg a pin p hwf hp
  have hpwf := packed_wf hwf hp
  obtain ⟨hsz, hle, -, -, hpins, -⟩ := packed_facts hpwf
  have hpos : 0 < fieldsPerWord p := Nat.div_pos hle hsz
  refine ⟨rfl, hpos, Nat.div_le_self 32 p.sz, rfl, rfl, bitOffset_add_le hpwf pin, fieldsPerWord_mul_le p,
    fun hpin => ?_, wordAddr_toNat p pin, wordAddr_aligned hpwf pin⟩
  exact (Nat.div_lt_iff_lt_mul hpos).mpr (Nat.lt_of_lt_of_le hpin hpins)

/-- Settles O38: without wrapping the tops are `RAM_TOP - id * STACK_SIZE`. -/
theorem stackRegionsAreDisjoint : Obligations.StackRegionsAreDisjoint := by
  intro cfg i j hsize hij hfit
  have hlt : i.toNat + 1 ≤ j.toNat := hij
  have hstep := Nat.mul_le_mul_right cfg.stackSize.toNat hlt
  rw [Nat.add_mul, Nat.one_mul] at hstep hfit
  have htopi := stackTop_toNat (cfg := cfg) (id := i) (by omega)
  have htopj := stackTop_toNat (cfg := cfg) (id := j) (by omega)
  refine ⟨by omega, by omega, by omega, fun hnext => ?_⟩
  have hj : j.toNat = i.toNat + 1 := by bv_omega
  rw [htopi, htopj, hj, Nat.add_mul, Nat.one_mul]
  omega

/-- Settles O40: an aligned table does not wrap, so entry addresses differ as slot offsets do. -/
theorem slotsTileTheTable : Obligations.SlotsTileTheTable := by
  refine ⟨⟨rfl, rfl, rfl, rfl⟩, ⟨rfl, rfl, rfl, rfl⟩, fun vbar g g' k k' haligned => ?_⟩
  have haddr := entryAddress_toNat haligned g k
  have haddr' := entryAddress_toNat haligned g' k'
  have hlt := slotOffset_lt g k
  refine ⟨by rw [haddr, slotOffset, Nat.add_assoc], ?_, by omega, fun h => slotOffset_inj ?_⟩
  · rw [haddr, slotOffset]
    omega
  · rw [h] at haddr
    omega

/-- Settles O41: the codes are read back from the tag, and the codes of distinct groups and classes differ. -/
theorem tagsNameTheirSlots : Obligations.TagsNameTheirSlots := by
  intro cfg hwf
  obtain ⟨hgroup, hclass⟩ := codes_wf hwf
  refine ⟨?_, fun g k => ⟨tagGroup_trapTag cfg g k, tagClass_trapTag cfg g k⟩, fun g g' k k' h => ?_⟩
  · simp only [GroupCodes.wf, ClassCodes.wf, Bool.and_eq_true, beq_iff_eq] at hgroup hclass
    obtain ⟨-, hspx⟩ := hgroup
    obtain ⟨-, hsync⟩ := hclass
    rw [trapTag, groupCode, classCode, hspx, hsync]
    decide
  · exact ⟨groupCode_inj hgroup (by rw [← tagGroup_trapTag cfg g k, h, tagGroup_trapTag]),
      classCode_inj hclass (by rw [← tagClass_trapTag cfg g k, h, tagClass_trapTag])⟩

/-- Settles O58: each core is made anew from the draw the input brings for it. -/
theorem externalResetResetsEveryCore : Obligations.ExternalResetResetsEveryCore := by
  intro s draws rest hwf hi hlen
  refine ⟨_, step_of_input hwf hi, rfl, by simp [externalReset], rfl, rfl, rfl, fun j d hd => ?_⟩
  have hlt : j < s.cfg.ncores := hlen ▸ (List.getElem?_eq_some_iff.mp hd).1
  refine ⟨Core.reset s.cfg.nh d, ?_, rfl, rfl, rfl, rfl, rfl, rfl, rfl, rfl, rfl, rfl, ?_, rfl, rfl,
    List.length_replicate, cache_reset _ d, fun k => by cases k <;> rfl, rfl, rfl⟩
  · simp [externalReset, hlt, hd]
  · simp [Core.maskValue, Core.reset]

/-- Settles O31: the one next state of HALT. -/
theorem haltOnlyHalts : Obligations.HaltOnlyHalts := fun _ _ hr => exec_halt hr

/-- Settles O32: the host's answer decides between TERMINATED and HALTED. -/
theorem poweroffTerminatesOrHalts : Obligations.PoweroffTerminatesOrHalts := by
  intro s c hr
  obtain ⟨honoured, honours, drawn, heq, hscript⟩ := exec_poweroff hr
  exact ⟨_, _, honoured, heq, List.getElem?_set_self (List.getElem?_eq_some_iff.mp hr.core).1, rfl, rfl, hscript,
    rfl, rfl, rfl, fun _ => rfl, rfl, fun j hj => List.getElem?_set_ne hj.symm⟩

end Sys2Proof.Proofs
end

section
/-! SUPPORT. When a run is over, and when its end is the orderly one (70_reset_and_hazards.md R171). -/

namespace Sys2Proof.Machine

/-- With nothing presented and no boot to take the machine stands still. -/
theorem step_standstill {s : State} (hwf : s.cfg.wf = true) (hi : s.inputs = []) (hb : s.nextBoot = none) :
    step s = standstill s := by
  rw [step_of_nothing hwf hi, autonomous, hb]

theorem over_iff (s : State) :
    s.over = true ↔ (∀ c ∈ s.cores, c.run ≠ .faulted) ∧ (s.terminated = true ∨ ∀ c ∈ s.cores, c.run = .halted) := by
  simp [State.over, State.faulted]

/-- A machine that is over has no boot to take. -/
theorem nextBoot_of_over {s : State} (h : s.over = true) : s.nextBoot = none := by
  obtain ⟨-, hend⟩ := (over_iff s).mp h
  refine (nextBoot_eq_none_iff s).mpr (hend.imp_right fun hall c hc => ?_)
  rw [hall c hc]
  decide

/-- With nothing presented the run is over exactly where the step says so. -/
theorem step_runOver_iff {s : State} (hwf : s.cfg.wf = true) (hi : s.inputs = []) :
    step s = .refused .runOver ↔ s.over = true := by
  refine ⟨fun h => ?_, fun h => ?_⟩
  · rw [step_of_nothing hwf hi, autonomous] at h
    split at h
    · cases h
    · exact (standstill_over s).mp h
  · rw [step_standstill hwf hi (nextBoot_of_over h)]
    exact (standstill_over s).mpr h

theorem safe_iff (s : State) :
    s.safe = true ↔ ∀ c ∈ s.cores, c.run ≠ .faulted ∧ ∀ r ∈ c.diag, r.isFatal = false := by
  simp [State.safe]

theorem orderlyEnd_iff (s : State) :
    s.orderlyEnd = true ↔ s.over = true ∧ s.safe = true ∧ (∃ j < s.cores.length, s.coreId j = 0) ∧
      ∀ j c, s.cores[j]? = some c → s.endedOrderly j c = true := by
  simp only [State.orderlyEnd, State.finished, Bool.and_eq_true, List.any_eq_true, List.mem_range,
    decide_eq_true_eq, List.all_eq_true, Prod.forall, List.mem_zipIdx_iff_getElem?, and_assoc]
  exact ⟨fun ⟨h1, h2, h3, h4⟩ => ⟨h1, h2, h3, fun j c hc => h4 c j hc⟩,
    fun ⟨h1, h2, h3, h4⟩ => ⟨h1, h2, h3, fun c j hc => h4 j c hc⟩⟩

/-- The orderly end, from the primary core `p`, which asked for the exit, and the secondaries halted at the gate
(R171). -/
theorem orderlyEnd_of_primary {s : State} {p : Nat} {c : Core} (hc : s.cores[p]? = some c) (hid : s.coreId p = 0)
    (hexit : c.exitReqs ≠ []) (hdiag : c.diag = []) (hrun : c.run ≠ .faulted)
    (hend : s.terminated = true ∨ c.run = .halted)
    (hothers : ∀ j d, j ≠ p → s.cores[j]? = some d →
      s.coreId j ≠ 0 ∧ d.run = .halted ∧ d.diag = [.coreReport (s.coreId j)]) : s.orderlyEnd = true := by
  have hall : ∀ d ∈ s.cores, d = c ∨ (d.run = .halted ∧ ∃ v, d.diag = [.coreReport v]) := fun d hd => by
    obtain ⟨j, hj⟩ := List.mem_iff_getElem?.mp hd
    by_cases hjp : j = p
    · subst hjp
      exact .inl (Option.some.inj (hj.symm.trans hc))
    · obtain ⟨-, hhalted, hreport⟩ := hothers j d hjp hj
      exact .inr ⟨hhalted, _, hreport⟩
  refine (orderlyEnd_iff s).mpr ⟨(over_iff s).mpr ⟨fun d hd => ?_, hend.imp_right fun hh d hd => ?_⟩,
    (safe_iff s).mpr fun d hd => ?_, ⟨p, (List.getElem?_eq_some_iff.mp hc).1, hid⟩, fun j d hd => ?_⟩
  · rcases hall d hd with rfl | ⟨hhalted, -⟩
    · exact hrun
    · simp [hhalted]
  · rcases hall d hd with rfl | ⟨hhalted, -⟩
    · exact hh
    · exact hhalted
  · rcases hall d hd with rfl | ⟨hhalted, v, hreport⟩
    · exact ⟨hrun, by simp [hdiag]⟩
    · simp [hhalted, hreport, DiagRecord.isFatal]
  · by_cases hjp : j = p
    · subst hjp
      obtain rfl := Option.some.inj (hd.symm.trans hc)
      rw [State.endedOrderly, if_pos hid]
      simpa using hexit
    · obtain ⟨hne, hhalted, hreport⟩ := hothers j d hjp hd
      rw [State.endedOrderly, if_neg hne]
      simp [hhalted, hreport]

end Sys2Proof.Machine
end

section
/-! CERTIFICATES. The end of a run (70_reset_and_hazards.md R171). -/

namespace Sys2Proof.Proofs

open Sys2Proof.Machine

/-- Settles O59: a step answers a standstill once no boot is to be taken, and a machine that is over has none to take. -/
theorem endOfARun : Obligations.EndOfARun := by
  intro s hwf hi
  refine ⟨(step_runOver_iff hwf hi).symm, fun hfaulted => ⟨?_, ?_, fun hstop => ?_⟩, fun hnone => ⟨?_, ?_, ?_⟩⟩
  · obtain ⟨c, hc, hrun⟩ := hfaulted
    refine Bool.eq_false_iff.mpr fun h => ?_
    obtain ⟨hnone, -⟩ := (over_iff s).mp h
    exact hnone c hc hrun
  · obtain ⟨c, hc, hrun⟩ := hfaulted
    refine Bool.eq_false_iff.mpr fun h => ?_
    have hsafe := List.all_eq_true.mp h c hc
    simp [hrun] at hsafe
  · rw [step_standstill hwf hi ((nextBoot_eq_none_iff s).mpr hstop), standstill,
      if_pos ((faulted_iff s).mpr hfaulted)]
  · exact fun hterm => (step_runOver_iff hwf hi).mpr ((over_iff s).mpr ⟨hnone, .inl hterm⟩)
  · exact fun hall => (step_runOver_iff hwf hi).mpr ((over_iff s).mpr ⟨hnone, .inr hall⟩)
  · intro hterm hbooted ⟨c, hc, hrun⟩
    have hover : ¬ s.over = true := fun h => by
      obtain ⟨-, hend⟩ := (over_iff s).mp h
      rcases hend with hend | hall
      · rw [hterm] at hend
        cases hend
      · rw [hall c hc] at hrun
        cases hrun
    rw [step_standstill hwf hi ((nextBoot_eq_none_iff s).mpr (.inr hbooted)), standstill, if_neg hover, if_neg]
    rw [faulted_iff]
    rintro ⟨d, hd, hfaulted⟩
    exact hnone d hd hfaulted

/-- Settles O60: the running core of a machine in the invariant is the primary one, with no record yet. -/
theorem poweroffEndsOrderly : Obligations.PoweroffEndsOrderly := by
  intro s c hinv hr hothers
  obtain ⟨honoured, honours, drawn, heq, -⟩ := exec_poweroff hr
  refine ⟨_, heq, ?_⟩
  obtain ⟨hid, -, hdiag⟩ := (hinv.core _ c hr.core).of_running hr.running
  refine orderlyEnd_of_primary (p := s.cur) (List.getElem?_set_self (List.getElem?_eq_some_iff.mp hr.core).1) hid
    (by simp) hdiag (by cases honoured <;> simp) (by cases honoured <;> simp) fun j d hj hd => ?_
  have hd' : s.cores[j]? = some d := (List.getElem?_set_ne hj.symm).symm.trans hd
  obtain ⟨hne, hhalted⟩ := hothers j d hj hd'
  exact ⟨hne, hhalted, (hinv.core j d hd').reported hhalted hne⟩

end Sys2Proof.Proofs
end

section
/-! SUPPORT. What the single commands compute: system registers bit by bit, fields of one bit, packed words. -/

namespace Sys2Proof.Machine

/-! ### The system registers -/

/-- `SR[id]` of a core whose identification register reads `raw` (10_state.md R18 to R23). -/
def Core.sysValue (c : Core) (raw : Word) : SysReg → Word
  | .coreid => raw
  | .vbar => c.vbar
  | .elr => c.elr
  | .esr => c.esr
  | .far => c.far
  | .mask => c.maskValue
  | .trapctl => c.trapctl
  | .spsel => c.spselValue

theorem State.sysValue_eq {s : State} {c : Core} (hc : s.cores[s.cur]? = some c) (r : SysReg) :
    s.sysValue r = c.sysValue (s.cfg.coreidRaw.getD s.cur 0) r := by
  cases r <;> simp only [State.sysValue, State.core_eq hc, Core.sysValue]

/-- The four implemented bits of MASK, put back in their place, are the bits written there (R21). -/
theorem maskBits_eq (v : Word) : BitVec.setWidth 64 (BitVec.setWidth 4 (v >>> 6)) <<< 6 = v &&& 0x3C0 := by
  apply BitVec.eq_of_getLsbD_eq
  intro i hi
  have hbits : (0x3C0 : Word).getLsbD i = (decide (6 ≤ i) && decide (i - 6 < 4)) := by
    have hshift : (0x3C0 : Word).getLsbD i = ((2 ^ 4 - 1) <<< 6).testBit i := rfl
    rw [hshift, Nat.testBit_shiftLeft, Nat.testBit_two_pow_sub_one]
  rw [BitVec.getLsbD_and, hbits]
  by_cases h6 : 6 ≤ i
  · have hback : 6 + (i - 6) = i := by omega
    simp [hi, h6, hback, Nat.not_lt.mpr h6, Bool.and_comm]
  · simp [h6, Nat.not_le.mp h6]

/-- The one implemented bit of SPSEL is bit 0 of the value written (R23). -/
theorem spselBit_eq (v : Word) : BitVec.setWidth 64 (BitVec.setWidth 1 v) = v &&& 1 := by
  apply BitVec.eq_of_getLsbD_eq
  intro i hi
  cases i <;> simp

theorem withSys_sysValue_same {r : SysReg} (hr : r ≠ .coreid) (c : Core) (v raw : Word) :
    (c.withSys r v).sysValue raw r = implemented r v := by
  cases r with
  | coreid => exact absurd rfl hr
  | mask => exact maskBits_eq v
  | spsel => exact spselBit_eq v
  | vbar | elr | esr | far | trapctl => rfl

theorem withSys_sysValue_other {q r : SysReg} (hq : q ≠ r) (c : Core) (v raw : Word) :
    (c.withSys r v).sysValue raw q = c.sysValue raw q := by
  cases r <;> cases q <;> simp_all [Core.withSys, Core.sysValue, Core.maskValue, Core.spselValue]

theorem replied_sysValue (c : Core) (rdata : Option Word) (raw : Word) (q : SysReg) :
    (c.replied rdata).sysValue raw q = c.sysValue raw q := by
  cases q <;> rfl

theorem accesses_sysValue (c : Core) (accesses : List Access) (raw : Word) (q : SysReg) :
    Core.sysValue { c with accesses := accesses } raw q = c.sysValue raw q := by
  cases q <;> rfl

/-- A field of one bit reads as that bit (R90). -/
theorem fieldRead_one (v : Word) (bit : Nat) : fieldRead v bit 1 = if v.getLsbD bit then 1 else 0 := by
  apply BitVec.eq_of_getLsbD_eq
  intro i hi
  rw [getLsbD_fieldRead]
  cases i with
  | zero => cases v.getLsbD bit <;> simp
  | succ i => cases v.getLsbD bit <;> simp

/-- The single-bit write is the field write of width 1 (R91). -/
theorem exec_setbit_eq_setbits (s : State) (h bit : Nat) : exec (.setbit h bit) s = exec (.setbits h bit 1) s := rfl

/-- The single-bit read is the field read of width 1 (R90). -/
theorem exec_getbit_eq_getbits (s : State) (h bit : Nat) : exec (.getbit h bit) s = exec (.getbits h bit 1) s := rfl

/-! ### Reads of the bus -/

/-- Reading an MMIO register into its cache answers from the storage there, else from the script (R44, R45). -/
theorem complete_hwRead_busAnswered {s : State} {c : Core} (hr : Ready s c) {h : Nat} {d : Handle} {addr : Word}
    (hd : s.cfg.ht[h]? = some d) (hl : d.loc = .mmio addr) :
    ∃ t c' v, complete (some (hwRead d s).1) ((hwRead d s).2.setCache h (hwRead d s).1) = .next t ∧
      t.cores[t.cur]? = some c' ∧ c'.rdata = some v ∧
      c'.accesses = c.accesses ++ [.bus .read addr (d.width / 8) v] ∧ BusAnswered s t addr (d.width / 8) v := by
  obtain ⟨v, access, answers, drawn, heq, hread⟩ := complete_hwRead_eq hr h (handle_wf hr.wf hd)
  obtain ⟨rfl, hanswered⟩ := hread.bus addr hl
  exact ⟨_, _, v, heq, List.getElem?_set_self (List.getElem?_eq_some_iff.mp hr.core).1, rfl, rfl,
    hanswered _ rfl rfl⟩

/-! ### Packed words -/

/-- The word PSTORE writes is the word it read with the element replaced (R102, R103): a 32-bit register with one
field written. -/
theorem fieldReplaced_packedWritten {p : PackedArray} (hp : p.wf = true) (pin : Nat) {w value : Word}
    (hw : w.toNat < 2 ^ 32) (hv : value.toNat < 2 ^ p.sz) :
    FieldReplaced w (packedWritten p pin w value) value (bitOffset p pin) p.sz :=
  fieldReplaced_fieldWritten (d := ⟨.mmio 0, 32⟩) rfl hw
    (Nat.le_trans (bitOffset_add_le hp pin) (fieldsPerWord_mul_le p)) hv

theorem packedWritten_lt {p : PackedArray} (hp : p.wf = true) (pin : Nat) (w : Word) {value : Word}
    (hv : value.toNat < 2 ^ p.sz) : (packedWritten p pin w value).toNat < 2 ^ 32 := by
  rw [packedWritten, BitVec.toNat_ofNat]
  exact Nat.lt_of_le_of_lt (Nat.mod_le _ _)
    (insertField_lt (Nat.le_trans (bitOffset_add_le hp pin) (fieldsPerWord_mul_le p)) hv)

/-- A word of four storage bytes is the value the bus read of it gives (R41, R44). -/
theorem BusAnswered.toNat_eq {s t : State} {addr w : Word} {m : Nat} (h : BusAnswered s t addr 4 w)
    (hm : Memory.readLE s.mem addr.toNat 4 = some m) : w.toNat = m := by
  have hlt := Memory.readLE_lt 4 hm
  obtain ⟨rfl, -⟩ := h.storage m hm
  rw [BitVec.toNat_ofNat]
  omega

/-- PFETCH of a pin of the array past its checks (R101). -/
theorem exec_pfetch_eq {s : State} {c : Core} (hr : Ready s c) {a pin : Nat} {p : PackedArray}
    (hp : s.cfg.pt[a]? = some p) (hpin : pin < p.maxPins) :
    ∃ w answers drawn,
      exec (.pfetch a pin) s = .next { s with
        answers := answers, drawn := drawn,
        cores := s.cores.set s.cur
          (Core.replied { c with accesses := c.accesses ++ [.bus .read (wordAddr p pin) 4 w] }
            (some (fieldRead w (bitOffset p pin) p.sz))) } ∧
      ∀ t : State, t.answers = answers → t.drawn = drawn → BusAnswered s t (wordAddr p pin) 4 w := by
  rw [exec_pfetch hr, withArray_some hp, check_holds (decide_eq_true hpin)]
  exact complete_packedRead hr p pin

/-- PSTORE of a value that fits, past its checks and outside the vector table (R102). -/
theorem exec_pstore_eq {s : State} {c : Core} (hr : Ready s c) {a pin : Nat} {p : PackedArray}
    (hp : s.cfg.pt[a]? = some p) (hpin : pin < p.maxPins) (hv : c.wdata.toNat < 2 ^ p.sz)
    (htable : inVectorTable s.cfg (wordAddr p pin) 4 = false) :
    ∃ w answers drawn,
      exec (.pstore a pin) s = .next { s with
        mem := Memory.writeLE s.mem (wordAddr p pin).toNat 4 (packedWritten p pin w c.wdata).toNat,
        answers := answers, drawn := drawn,
        cores := s.cores.set s.cur
          (Core.replied { c with accesses := c.accesses ++ [.bus .read (wordAddr p pin) 4 w,
            .bus .write (wordAddr p pin) 4 (packedWritten p pin w c.wdata)] } none) } ∧
      ∀ t : State, t.answers = answers → t.drawn = drawn → BusAnswered s t (wordAddr p pin) 4 w := by
  rw [exec_pstore hr, withArray_some hp, check_holds (decide_eq_true hpin), check_fits hv]
  obtain ⟨w, answers, drawn, heq, hanswered⟩ := completeWrite_packed hr (p := p) (pin := pin) c.wdata
  rw [htable] at heq
  exact ⟨w, answers, drawn, heq, hanswered⟩

end Sys2Proof.Machine
end

section
/-! CERTIFICATES. The single commands of 40_scalar_register.md, 41_packed_array.md and 42_system_ops.md. -/

namespace Sys2Proof.Proofs

open Sys2Proof.Machine

/-- Settles O12: past the index check the value check, then one cache write. -/
theorem newvWritesTheCache : Obligations.NewvWritesTheCache := by
  intro s c h d hr hd hlen
  rw [exec_newv hr, withHandle_some hd]
  refine ⟨fun hwide => check_fits_tooWide hr hwide _, fun hfits => ?_⟩
  rw [check_fits hfits]
  exact complete_setCache_spec hr (hlen ▸ lt_nh_of_handle hd) c.wdata none

/-- Settles O14: past the index check one hardware read, as FETCH does it. -/
theorem newfReadsOnce : Obligations.NewfReadsOnce := by
  intro s c h d hr hd hlen
  rw [exec_newf hr, withHandle_some hd]
  exact complete_hwRead_spec hr (hlen ▸ lt_nh_of_handle hd) (handle_wf hr.wf hd)

/-- Settles O16: the four commands issue the same bus read. -/
theorem busReadAnswersFromStorageThenScript : Obligations.BusReadAnswersFromStorageThenScript := by
  intro s c hr
  have hlt := (List.getElem?_eq_some_iff.mp hr.core).1
  refine ⟨fun h d addr hd hl => ⟨?_, fun hv => ?_⟩, fun a pin p hp hpin => ⟨?_, fun hv htable => ?_⟩⟩
  · rw [exec_newf hr, withHandle_some hd]
    exact complete_hwRead_busAnswered hr hd hl
  · obtain ⟨v, hv⟩ := Option.isSome_iff_exists.mp hv
    rw [exec_fetch hr, withCache_constructed hr hd hv]
    exact complete_hwRead_busAnswered hr hd hl
  · obtain ⟨w, answers, drawn, heq, hanswered⟩ := exec_pfetch_eq hr hp hpin
    exact ⟨_, _, w, heq, List.getElem?_set_self hlt, congrArg some (fieldRead_eq w _ _), rfl, hanswered _ rfl rfl⟩
  · obtain ⟨w, answers, drawn, heq, hanswered⟩ := exec_pstore_eq hr hp hpin hv htable
    have hw := hanswered { s with answers := answers, drawn := drawn } rfl rfl
    exact ⟨_, _, w, _, heq, List.getElem?_set_self hlt,
      fieldReplaced_packedWritten (packed_wf hr.wf hp) pin hw.fits hv, rfl, hanswered _ rfl rfl⟩

/-- Settles O18: past the three checks STORE is one write of the register file. -/
theorem storeWritesTheSystemRegister : Obligations.StoreWritesTheSystemRegister := by
  intro s c h d r v hr hd hl hne hv
  have hcheck : (d.loc != .sysreg .coreid) = true := by simp [hl, hne]
  rw [exec_store hr, withCache_constructed hr hd hv, check_holds hcheck]
  simp only [hwWrite, hl, completeWrite_sysWrite hr]
  have hwrites : writesSys (.store h) s = true := by simp [writesSys, hd, hl]
  have hframe := bodyFrame_withSys c hwrites r v
  have hcompleted := completed_replied hr hframe.run hframe.registers hframe.ports none s.mem s.answers s.drawn
  refine ⟨_, _, rfl, hcompleted, fun _ => rfl, ⟨rfl, rfl⟩, ?_, fun q hq => ?_, ?_, ?_, ?_, rfl⟩
  · rw [State.sysValue_eq hcompleted.core, replied_sysValue, withSys_sysValue_same hne]
  · rw [State.sysValue_eq hcompleted.core, replied_sysValue, withSys_sysValue_other hq, accesses_sysValue,
      State.sysValue_eq hr.core]
  · cases r <;> simp [Core.replied, Core.withSys]
  · simp [Core.replied]
  · simp [Core.replied]

/-- Settles O19: past the three checks STORE is one wide write of the storage. -/
theorem storeWritesTheBusRegister : Obligations.StoreWritesTheBusRegister := by
  intro s c h d addr v hr hd hl hv htable
  have hcheck : (d.loc != .sysreg .coreid) = true := by simp [hl]
  rw [exec_store hr, withCache_constructed hr hd hv, check_holds hcheck]
  simp only [hwWrite, hl, completeWrite_memWrite hr.core, htable, Bool.false_eq_true, if_false]
  exact ⟨_, _, rfl, completed_accesses hr _ none _ s.answers s.drawn, sameSys_accesses c _ none, ⟨rfl, rfl⟩,
    rfl, rfl, rfl, fun k hk => Memory.read_writeLE _ _ _ _ k hk, fun x hx => Memory.read_writeLE_other _ _ _ _ x hx⟩

/-- Settles O20: past the checks the field goes to RDATA, and GETBIT is GETBITS of width 1. -/
theorem getbitsAndGetbitReadTheField : Obligations.GetbitsAndGetbitReadTheField := by
  intro s c h d v hr hd hv
  refine ⟨fun shift width hg => ?_, fun bit hb => ?_⟩
  · rw [exec_getbits_constructed hr hd hv hg, fieldRead_eq]
    exact complete_spec hr _
  · rw [exec_getbit_eq_getbits, exec_getbits_constructed hr hd hv hb, fieldRead_one]
    exact complete_spec hr _

/-- Settles O21: past the checks the field formula replaces the field, and SETBIT is SETBITS of width 1. -/
theorem setbitsAndSetbitReplaceTheField : Obligations.SetbitsAndSetbitReplaceTheField := by
  intro s c h d v hr hd hlen hv hold
  have hset : ∀ shift width, shift + width ≤ d.width → c.wdata.toNat < 2 ^ width →
      ∃ t c' w, exec (.setbits h shift width) s = .next t ∧ Completed s t c c' ∧ NoAccess s t c c' ∧
        c'.cache h = some w ∧ FieldReplaced v w c.wdata shift width ∧ OtherCaches h c c' ∧ c'.rdata = none := by
    intro shift width hg hfits
    rw [exec_setbits_constructed hr hd hv hg, check_fits hfits]
    obtain ⟨t, c', heq, hcompleted, hnoaccess, hcache, hothers, hrdata⟩ :=
      complete_setCache_spec hr (hlen ▸ lt_nh_of_handle hd) (fieldWritten d v shift width c.wdata) none
    exact ⟨t, c', _, heq, hcompleted, hnoaccess, hcache,
      fieldReplaced_fieldWritten (handle_wf hr.wf hd) hold hg hfits, hothers, hrdata⟩
  refine ⟨hset, fun bit hb hfits => ?_⟩
  rw [exec_setbit_eq_setbits]
  exact hset bit 1 hb hfits

/-- Settles O22: both forms run the same checks and the same field operation. -/
theorem singleBitFormsAreWidthOneFields : Obligations.SingleBitFormsAreWidthOneFields := fun s h bit =>
  ⟨exec_getbit_eq_getbits s h bit, exec_setbit_eq_setbits s h bit⟩

/-- Settles O25: past the checks PFETCH is one bus read, whose answer is the stored word on plain storage. -/
theorem pfetchReadsTheElement : Obligations.PfetchReadsTheElement := by
  intro s c a pin hr
  obtain ⟨-, -, -, hindex⟩ := illegalWordsAndIndicesAreFatal
  refine ⟨fun ha => (hindex s c a pin hr ha).1, fun p hp hpin => ?_, fun p hp hpin => ?_⟩
  · exact (fatalIsTheFirstFailingCheck _ s c _ hr).mpr
      (by simp [firstFailure, handleIndex, hp, firstPackedFailure, hpin])
  · obtain ⟨w, answers, drawn, heq, hanswered⟩ := exec_pfetch_eq hr hp hpin
    have hw := hanswered { s with answers := answers, drawn := drawn } rfl rfl
    refine ⟨_, _, w, heq, completed_accesses hr _ _ s.mem answers drawn, sameSys_accesses c _ _, fun _ => rfl,
      rfl, hw.fits, rfl, congrArg some (fieldRead_eq w _ _), fun v hv => ?_⟩
    obtain ⟨m, hm, rfl⟩ := Option.map_eq_some_iff.mp hv
    rw [← hw.toNat_eq hm]
    exact congrArg some (fieldRead_eq w _ _)

/-- Settles O26: past the checks PSTORE is one bus read and one wide write of the same word. -/
theorem pstoreRewritesOneWord : Obligations.PstoreRewritesOneWord := by
  intro s c a pin hr
  obtain ⟨-, -, -, hindex⟩ := illegalWordsAndIndicesAreFatal
  refine ⟨fun ha => (hindex s c a pin hr ha).2, fun p hp hpin => ?_, fun p hp hpin hwide => ?_,
    fun p hp hpin hv htable => ?_⟩
  · exact (fatalIsTheFirstFailingCheck _ s c _ hr).mpr
      (by simp [firstFailure, handleIndex, hp, firstPackedFailure, hpin])
  · exact (fatalIsTheFirstFailingCheck _ s c _ hr).mpr
      (by simp [firstFailure, handleIndex, hp, firstPackedFailure, hpin.not_ge, hwide])
  · obtain ⟨w, answers, drawn, heq, hanswered⟩ := exec_pstore_eq hr hp hpin hv htable
    have hpwf := packed_wf hr.wf hp
    have hw := hanswered { s with answers := answers, drawn := drawn } rfl rfl
    refine ⟨_, _, w, _, heq, completed_accesses hr _ none _ answers drawn, sameSys_accesses c _ none, rfl, rfl, hw.fits,
      rfl, fieldReplaced_packedWritten hpwf pin hw.fits hv, fun m hm => ⟨?_, ?_⟩,
      fun x hx => Memory.read_writeLE_other _ _ _ _ x hx⟩
    · exact (hw.storage m hm).1
    · exact Memory.readLE_writeLE 4 _ _ _ (packedWritten_lt hpwf pin w hv) (by rw [hm]; rfl)

/-- Settles O28: the core INITEXC leaves, with and without the routing controls. -/
theorem initexcInstallsAndArmsTheTable : Obligations.InitexcInstallsAndArmsTheTable := by
  intro s c hr
  have hframe := bodyFrame_armed s c
  refine ⟨_, _, (exec_initexc hr).trans (complete_onCore hr.core none _),
    completed_replied hr hframe.run hframe.registers hframe.ports none s.mem s.answers s.drawn, fun _ => rfl, ⟨rfl, rfl⟩, rfl, rfl, rfl, rfl, rfl, rfl, rfl, rfl, ?_⟩
  cases hroute : s.cfg.initRouting <;> simp [Core.replied, Core.armed, hroute]

/-- Settles O29: GETCID logs its read and replies with the masked field. -/
theorem getcidReadsTheCoreId : Obligations.GetcidReadsTheCoreId := by
  intro s c hr
  refine ⟨_, _, (exec_getcid hr).trans (complete_onCore hr.core _ _),
    completed_accesses hr _ _ s.mem s.answers s.drawn, sameSys_accesses c _ _, fun _ => rfl, ⟨rfl, rfl⟩, rfl, rfl,
    congrArg some (coreIdField_eq s.cfg _)⟩

/-- Settles O30: a RUNNING core of a machine in the invariant has id 0. -/
theorem getcidThroughThePortReturnsZero : Obligations.GetcidThroughThePortReturnsZero := by
  intro s c hinv hr
  obtain ⟨hid, -⟩ := (hinv.core _ c hr.core).of_running hr.running
  exact ⟨_, _, (exec_getcid hr).trans (complete_onCore hr.core _ _),
    List.getElem?_set_self (List.getElem?_eq_some_iff.mp hr.core).1, congrArg some hid⟩

end Sys2Proof.Proofs
end

section
/-! SUPPORT. Elements of a packed array beside each other: a store to one leaves the others (41_packed_array.md R104). -/

namespace Sys2Proof.Machine

/-- A wide write leaves the wide reads that share no byte with it. -/
theorem Memory.readLE_writeLE_other (m : Memory) (a n v : Nat) : ∀ (k b : Nat), (b + k ≤ a ∨ a + n ≤ b) →
    Memory.readLE (Memory.writeLE m a n v) b k = Memory.readLE m b k := by
  intro k
  induction k with
  | zero => intro b _; rfl
  | succ k ih =>
    intro b h
    simp only [Memory.readLE]
    rw [Memory.read_writeLE_other n m a v b (by omega), ih (b + 1) (by omega)]

/-- A field apart from the one that was replaced reads as before. -/
theorem fieldRead_of_disjoint {old new value : Word} {shift shift' width : Nat}
    (hf : FieldReplaced old new value shift width) (h : shift' + width ≤ shift ∨ shift + width ≤ shift') :
    fieldRead new shift' width = fieldRead old shift' width := by
  apply BitVec.eq_of_getLsbD_eq
  intro i _
  rw [getLsbD_fieldRead, getLsbD_fieldRead, hf (shift' + i)]
  by_cases hi : i < width
  · rw [if_neg (by omega)]
  · simp [hi]

/-- Two pins with one word address have one word index: the words of an array do not wrap onto each other (R54). -/
theorem wordIndex_eq_of_wordAddr_eq {p : PackedArray} (hp : p.wf = true) {pin q : Nat} (hpin : pin < p.maxPins)
    (hq : q < p.maxPins) (h : wordAddr p q = wordAddr p pin) : wordIndex p q = wordIndex p pin := by
  obtain ⟨-, -, -, -, -, hmax⟩ := packed_facts hp
  have hipin : wordIndex p pin ≤ pin := Nat.div_le_self _ _
  have hiq : wordIndex p q ≤ q := Nat.div_le_self _ _
  have haddr := congrArg BitVec.toNat h
  rw [wordAddr_toNat, wordAddr_toNat] at haddr
  omega

/-- Distinct elements of one word are fields apart (R100). -/
theorem bitOffset_disjoint {p : PackedArray} {pin q : Nat} (hne : q ≠ pin)
    (hword : wordIndex p q = wordIndex p pin) :
    bitOffset p q + p.sz ≤ bitOffset p pin ∨ bitOffset p pin + p.sz ≤ bitOffset p q := by
  have hmod : q % fieldsPerWord p ≠ pin % fieldsPerWord p := fun hmod => hne <| by
    rw [← Nat.div_add_mod q (fieldsPerWord p), ← Nat.div_add_mod pin (fieldsPerWord p), hmod]
    exact congrArg (fieldsPerWord p * · + _) hword
  simp only [bitOffset]
  rcases Nat.lt_or_gt_of_ne hmod with hlt | hlt
  · exact .inl (by simpa [Nat.add_mul] using Nat.mul_le_mul_right p.sz hlt)
  · exact .inr (by simpa [Nat.add_mul] using Nat.mul_le_mul_right p.sz hlt)

theorem elementValue_eq_some {m : Memory} {p : PackedArray} {pin w : Nat}
    (h : Memory.readLE m (wordAddr p pin).toNat 4 = some w) :
    elementValue m p pin = some (fieldRead (BitVec.ofNat 64 w) (bitOffset p pin) p.sz) := by
  have hlt := Memory.readLE_lt 4 h
  have hmod : w % 2 ^ 64 = w := Nat.mod_eq_of_lt (by omega)
  rw [elementValue, h, fieldRead_eq, BitVec.toNat_ofNat, hmod]
  rfl

section Store

variable {p : PackedArray} {m : Memory} {pin w : Nat} {value : Word}

/-- Where the word is storage holding `w`, it holds after the store the word PSTORE writes. -/
theorem readLE_packedStore (hp : p.wf = true) (hv : value.toNat < 2 ^ p.sz)
    (hw : Memory.readLE m (wordAddr p pin).toNat 4 = some w) :
    Memory.readLE (Memory.writeLE m (wordAddr p pin).toNat 4
        (packedWritten p pin (BitVec.ofNat 64 w) value).toNat) (wordAddr p pin).toNat 4
      = some (packedWritten p pin (BitVec.ofNat 64 w) value).toNat :=
  Memory.readLE_writeLE 4 _ _ _ (packedWritten_lt hp pin _ hv) (by rw [hw]; rfl)

theorem fieldReplaced_packedStore (hp : p.wf = true) (hv : value.toNat < 2 ^ p.sz)
    (hw : Memory.readLE m (wordAddr p pin).toNat 4 = some w) :
    FieldReplaced (BitVec.ofNat 64 w) (packedWritten p pin (BitVec.ofNat 64 w) value) value (bitOffset p pin)
      p.sz := by
  have hlt := Memory.readLE_lt 4 hw
  refine fieldReplaced_packedWritten hp pin ?_ hv
  rw [BitVec.toNat_ofNat]
  omega

/-- The stored element is read back (R104). -/
theorem elementValue_packedStore_same (hp : p.wf = true) (hv : value.toNat < 2 ^ p.sz)
    (hw : Memory.readLE m (wordAddr p pin).toNat 4 = some w) :
    elementValue (Memory.writeLE m (wordAddr p pin).toNat 4
      (packedWritten p pin (BitVec.ofNat 64 w) value).toNat) p pin = some value := by
  rw [elementValue_eq_some (readLE_packedStore hp hv hw), BitVec.ofNat_toNat, BitVec.setWidth_eq,
    fieldRead_of_fieldReplaced (fieldReplaced_packedStore hp hv hw) hv]

/-- Every other element of the array reads as before (R104). -/
theorem elementValue_packedStore_other (hp : p.wf = true) (hpin : pin < p.maxPins) {q : Nat} (hq : q < p.maxPins)
    (hne : q ≠ pin) (hv : value.toNat < 2 ^ p.sz) (hw : Memory.readLE m (wordAddr p pin).toNat 4 = some w) :
    elementValue (Memory.writeLE m (wordAddr p pin).toNat 4
      (packedWritten p pin (BitVec.ofNat 64 w) value).toNat) p q = elementValue m p q := by
  by_cases haddr : wordAddr p q = wordAddr p pin
  · have hstored := readLE_packedStore hp hv hw
    have hoffset := bitOffset_disjoint hne (wordIndex_eq_of_wordAddr_eq hp hpin hq haddr)
    rw [← haddr] at hstored hw
    rw [← haddr, elementValue_eq_some hstored, elementValue_eq_some hw, BitVec.ofNat_toNat, BitVec.setWidth_eq,
      fieldRead_of_disjoint (fieldReplaced_packedStore hp hv (haddr ▸ hw)) hoffset]
  · have hpin4 := wordAddr_aligned hp pin
    have hq4 := wordAddr_aligned hp q
    have hapart : (wordAddr p q).toNat ≠ (wordAddr p pin).toNat := fun h => haddr (BitVec.eq_of_toNat_eq h)
    rw [elementValue, Memory.readLE_writeLE_other _ _ _ _ _ _ (by omega), elementValue]

/-- PSTORE on a word of plain storage leaves its core ready and the stored word in place (R102). -/
theorem exec_pstore_onStorage {s : State} {c : Core} (hr : Ready s c) {a : Nat} (hp : s.cfg.pt[a]? = some p)
    (hpin : pin < p.maxPins) (hv : c.wdata.toNat < 2 ^ p.sz)
    (htable : inVectorTable s.cfg (wordAddr p pin) 4 = false)
    (hw : Memory.readLE s.mem (wordAddr p pin).toNat 4 = some w) :
    ∃ t c', exec (.pstore a pin) s = .next t ∧ Ready t c' ∧ t.cfg = s.cfg ∧
      t.mem = Memory.writeLE s.mem (wordAddr p pin).toNat 4
        (packedWritten p pin (BitVec.ofNat 64 w) c.wdata).toNat := by
  obtain ⟨x, answers, drawn, heq, hanswered⟩ := exec_pstore_eq hr hp hpin hv htable
  obtain ⟨rfl, -⟩ := (hanswered { s with answers := answers, drawn := drawn } rfl rfl).storage w hw
  exact ⟨_, _, heq, (completed_accesses hr _ none _ answers drawn).ready hr, rfl, rfl⟩

end Store

/-- PFETCH of an element on plain storage gives its value (R101). -/
theorem exec_pfetch_of_elementValue {s : State} {c : Core} (hr : Ready s c) {a pin : Nat} {p : PackedArray}
    (hp : s.cfg.pt[a]? = some p) (hpin : pin < p.maxPins) {v : Word} (hv : elementValue s.mem p pin = some v) :
    ∃ u u', exec (.pfetch a pin) s = .next u ∧ u.cores[u.cur]? = some u' ∧ u'.rdata = some v := by
  obtain ⟨-, -, hread⟩ := Sys2Proof.Proofs.pfetchReadsTheElement s c a pin hr
  obtain ⟨u, u', -, hu, hdone, -, -, -, -, -, -, hrdata⟩ := hread p hp hpin
  exact ⟨u, u', hu, hdone.core, hrdata v hv⟩

end Sys2Proof.Machine
end

section
/-! CERTIFICATES. Packed arrays on plain storage (41_packed_array.md R104). -/

namespace Sys2Proof.Proofs

open Sys2Proof.Machine

/-- Settles O27: the core PSTORE leaves is ready for PFETCH, on the storage PSTORE leaves. -/
theorem packedStoreThenFetch : Obligations.PackedStoreThenFetch := by
  intro s c a pin p hr hp hpin
  have hpwf := packed_wf hr.wf hp
  refine ⟨Nat.le_trans (bitOffset_add_le hpwf pin) (fieldsPerWord_mul_le p), rfl, fun hv htable hstorage => ?_⟩
  obtain ⟨m, hm⟩ := Option.isSome_iff_exists.mp hstorage
  obtain ⟨t, t', heq, hrt, hcfg, hmem⟩ := exec_pstore_onStorage hr hp hpin hv htable hm
  have hpt : t.cfg.pt[a]? = some p := hcfg ▸ hp
  refine ⟨t, heq, exec_pfetch_of_elementValue hrt hpt hpin ?_, fun q v hq hne helement =>
    exec_pfetch_of_elementValue hrt hpt hq ?_⟩
  · rw [hmem]
    exact elementValue_packedStore_same hpwf hv hm
  · rw [hmem, elementValue_packedStore_other hpwf hpin hq hne hv hm, helement]

end Sys2Proof.Proofs
end
